-- ==== Sys2Proof/Word.lean ====
section
/-! DEFINITION. The two word types of the controller (spec/00_scope.md R7, R10: every value is unsigned). -/

namespace Sys2Proof

/-- The unit of transfer (20_memory.md R60). -/
abbrev Byte := BitVec 8

/-- A register of 32 bits (10_state.md R20), for a quantity of `XLEN` = 32 bits: SIZE, ADDR, LEN, T0, IDX and the
answers of `now_ms` (00_scope.md R7; for a smaller `XLEN`: `Machine.regWord`). -/
abbrev Word := BitVec 32

end Sys2Proof
end

