-- ==== Sys2Proof/Config.lean ====
section
/-! DEFINITION. The configuration record `Cfg` of spec/00_scope.md R7, its value for this hardware, and the free values. -/

namespace Sys2Proof.Config

/-- The two frame modes (42_framing_and_bounds.md R150, R151). -/
inductive FrameMode where
  | corrected
  | legacy
deriving DecidableEq, Repr

/-- `ID_LAYOUT`: which received byte holds the manufacturer code, and which byte, from which bit up, the
5-bit density code (40_density_and_id.md R112). -/
structure IdLayout where
  mfrByte : Fin 4
  densityByte : Fin 4
  densityLow : Nat
deriving DecidableEq, Repr

/-- Every literal of the source is a field here (00_scope.md R7). Everything the controller does takes a `Cfg`, and
takes `hw` where none is named. -/
structure Cfg where
  xlen : Nat
  opcRdsr : Byte
  opcWren : Byte
  opcRdid : Byte
  opcWrite : Byte
  opcRead : Byte
  opcWrsr : Byte
  maxTimeoutMs : Word
  mfrAccept : Byte
  idLen : Nat
  srLen : Nat
  densityTable : List (BitVec 5 × Word)
  awSmall : Nat
  awLarge : Nat
  awLimit : Word
  idLayout : IdLayout
  welBit : Nat
  frameMode : FrameMode
  clearByte : Byte
deriving DecidableEq, Repr

/-- The density table this hardware takes (40_density_and_id.md R110).
PRESUMED by the spec (its decision D6): the codes and the four unnamed capacities; log 23. -/
def densityTable : List (BitVec 5 × Word) :=
  [(0x01#5, 2048#32), (0x03#5, 8192#32), (0x04#5, 16384#32), (0x05#5, 32768#32), (0x06#5, 65536#32),
   (0x07#5, 131072#32), (0x08#5, 262144#32), (0x09#5, 524288#32), (0x0A#5, 1048576#32)]

/-- The configuration of this hardware: the value column of 00_scope.md R7.
The values the spec itself decided (D4 to D8, D10, D15, D16) are listed in log 23. -/
def hw : Cfg where
  xlen := 32
  opcRdsr := 0x05#8
  opcWren := 0x06#8
  opcRdid := 0x9F#8
  opcWrite := 0x02#8
  opcRead := 0x03#8
  opcWrsr := 0x01#8
  maxTimeoutMs := 1000#32
  mfrAccept := 0x04#8
  idLen := 4
  srLen := 1
  densityTable := densityTable
  awSmall := 3
  awLarge := 4
  awLimit := 65536#32
  idLayout := { mfrByte := 0, densityByte := 2, densityLow := 0 }
  welBit := 1
  frameMode := .corrected
  clearByte := 0x00#8

/-- A free answer ok (true) or fail (false) of a transport call (20_memory.md R52), for the draw's number. Log 3. -/
opaque freeOk : Nat → Bool

/-- A free byte: `any` of 00_scope.md R15, for the draw's number. Log 3. -/
opaque freeByte : Nat → Byte

/-- A free 32-bit value: an unconstrained answer of `now_ms`, for the draw's number. Log 3. -/
opaque freeWord : Nat → Word

/-- A free 32-bit value: what a host read of a register answers while an operation runs (10_state.md R34), for the
register's number and the draw's. Logs 3, 20. -/
opaque freeHostRead : Nat → Nat → Word

end Sys2Proof.Config
end

