-- ==== Sys2Proof/Syntax.lean ====
section
/-! DEFINITION. The operations of spec/opcode_table.json, one constructor a row, and the textual host program of 30_encoding.md R94. -/

namespace Sys2Proof

/-- One constructor per row of spec/opcode_table.json (00_scope.md R4: three layers). A host operation
carries both fields of the request word `REQ` (30_encoding.md R90), those it ignores included. -/
inductive Instr where
  /-- read-status, 30_encoding.md R86 -/
  | wRdsr
  /-- write-enable, R87 -/
  | wWren
  /-- read-ID, R96 -/
  | wRdid
  /-- write with a 3-byte address field, R97, R81 -/
  | wWriteW3 (a : BitVec 24)
  /-- write with a 4-byte address field, R97, R81 -/
  | wWriteW4 (a : BitVec 32)
  /-- read with a 3-byte address field, R98, R81 -/
  | wReadW3 (a : BitVec 24)
  /-- read with a 4-byte address field, R98, R81 -/
  | wReadW4 (a : BitVec 32)
  /-- write-status, never issued, R88 -/
  | wWrsr
  /-- 44_init.md R200 -/
  | init (addr len : Word)
  /-- 43_data_operations.md R171 -/
  | read (addr len : Word)
  /-- 43_data_operations.md R170 -/
  | write (addr len : Word)
  /-- 43_data_operations.md R172 -/
  | clear (addr len : Word)
  /-- 43_data_operations.md R173 -/
  | erase (addr len : Word)
  /-- reserved selector 0, 30_encoding.md R92 -/
  | reservedOp0 (addr len : Word)
  /-- reserved selector 6, R92 -/
  | reservedOp6 (addr len : Word)
  /-- reserved selector 7, R92 -/
  | reservedOp7 (addr len : Word)
  /-- 40_density_and_id.md R111 -/
  | findDensity (d : BitVec 5)
  /-- 40_density_and_id.md R112; its operand is the register IDR -/
  | idDecode
  /-- 40_density_and_id.md R114 -/
  | aw (d : BitVec 5)
  /-- 40_density_and_id.md R116 -/
  | getId
  /-- 41_wel_handshake.md R131 -/
  | getWel
  /-- 41_wel_handshake.md R133 -/
  | setWel
  /-- 42_framing_and_bounds.md R150 -/
  | frame (opc : Byte) (a : Word)
  /-- 42_framing_and_bounds.md R156 -/
  | bounds (size a n : Word)
deriving DecidableEq, Repr

/-- The three encoding spaces of spec/opcode_table.json (30_encoding.md R80; internal rows have no encoding). -/
inductive Space where
  | wire
  | host
  | micro
deriving DecidableEq, Repr

/-- The `space` column of spec/opcode_table.json. -/
def Instr.space : Instr → Space
  | .wRdsr | .wWren | .wRdid | .wWriteW3 _ | .wWriteW4 _ | .wReadW3 _ | .wReadW4 _ | .wWrsr => .wire
  | .init _ _ | .read _ _ | .write _ _ | .clear _ _ | .erase _ _ => .host
  | .reservedOp0 _ _ | .reservedOp6 _ _ | .reservedOp7 _ _ => .host
  | .findDensity _ | .idDecode | .aw _ | .getId | .getWel | .setWel | .frame _ _ | .bounds _ _ _ => .micro

/-- What the host presents: the 67-bit word `REQ` and the write data stream (30_encoding.md R90). -/
structure Request where
  req : BitVec 67
  wdata : List Byte
deriving DecidableEq, Repr

/-- One line of a host program in the textual form of 30_encoding.md R94. -/
inductive Line where
  | init
  | read (addr len : Word)
  | write (addr : Word) (bytes : List Byte)
  | clear (addr len : Word)
  | erase
deriving DecidableEq, Repr

end Sys2Proof
end

