-- ==== Sys2Proof/WellFormed.lean ====
section
/-! DEFINITION. What an instruction, a request and a configuration must satisfy beyond their types. -/

namespace Sys2Proof

/-- FRAME's operand is the opcode byte of an addressed command (42_framing_and_bounds.md R150:
"an opcode byte `opc` (0x02 or 0x03)"), and an address field fits the bytes its format sends (30_encoding.md R81; in
this hardware's formats every 24-bit and every 32-bit value does). Every other operand form is as wide as its type. -/
def Instr.wf (i : Instr) (c : Config.Cfg := Config.hw) : Bool :=
  match i with
  | .frame opc _ => opc == c.opcWrite || opc == c.opcRead
  | .wWriteW3 a | .wReadW3 a => decide (a.toNat < 256 ^ c.awSmall)
  | .wWriteW4 a | .wReadW4 a => decide (a.toNat < 256 ^ c.awLarge)
  | .wRdsr | .wWren | .wRdid | .wWrsr => true
  | .init _ _ | .read _ _ | .write _ _ | .clear _ _ | .erase _ _ => true
  | .reservedOp0 _ _ | .reservedOp6 _ _ | .reservedOp7 _ _ => true
  | .findDensity _ | .idDecode | .aw _ | .getId | .getWel | .setWel | .bounds _ _ _ => true

/-- The selector field of `REQ` (30_encoding.md R90). -/
def Request.selector (r : Request) : BitVec 3 := r.req.extractLsb' 64 3

/-- The length field of `REQ` (30_encoding.md R90). -/
def Request.length (r : Request) : Word := r.req.extractLsb' 0 32

/-- A request the host is allowed to present: no reserved selector (10_state.md R42), and with a WRITE
exactly `LEN` bytes of write data (R32: "for WRITE `|wdata|` must equal `len`"). -/
def Request.wf (r : Request) : Bool :=
  decide (r.selector ≠ 0#3) && decide (r.selector ≠ 6#3) && decide (r.selector ≠ 7#3) &&
    (decide (r.selector ≠ 3#3) || r.wdata.length == r.length.toNat)

/-- A line the host may write: a WRITE's byte list fits the 32-bit length (30_encoding.md R94, R90). -/
def Line.wf : Line → Bool
  | .write _ bytes => decide (bytes.length < 2 ^ 32)
  | .init | .read _ _ | .clear _ _ | .erase => true

/-- The powers of two from 2,048 to 1,048,576 (40_density_and_id.md R110). -/
def powersOfTwo : List Word :=
  [2048#32, 4096#32, 8192#32, 16384#32, 32768#32, 65536#32, 131072#32, 262144#32, 524288#32, 1048576#32]

/-- The properties every admissible table has (40_density_and_id.md R110, last paragraph). -/
def admissibleTable (t : List (BitVec 5 × Word)) : Bool :=
  decide (t.length = 9) && decide (t.map (·.1)).Nodup && decide (t.map (·.2)).Nodup &&
    [2048#32, 32768#32, 65536#32, 131072#32, 1048576#32].all (fun c => (t.map (·.2)).contains c) &&
    t.all (fun e => powersOfTwo.contains e.2) &&
    decide ((t.filter (fun e => decide (e.2.toNat ≤ 65536))).length = 5)

/-- The opcode map (30_encoding.md R85) of a configuration. -/
def opcodes (c : Config.Cfg) : List Byte :=
  [c.opcRdsr, c.opcWren, c.opcRdid, c.opcWrite, c.opcRead, c.opcWrsr]

/-- A configuration the model's registers and formats can carry out: an admissible table, its limit between the two
widths, opcodes that tell the commands apart, a WEL bit inside the status byte, the two fields of the identification
in bytes of their own, quantities that hold every capacity in registers of 32 bits (10_state.md R20), and address
fields that formats W3 and W4 can hold (30_encoding.md R81). Log 23. -/
def admissible (c : Config.Cfg) : Bool :=
  admissibleTable c.densityTable && decide (c.awLimit = 65536#32) && decide (opcodes c).Nodup &&
    decide (c.idLen = 4) && decide (c.srLen = 1) && decide (c.welBit < 8) &&
    decide (c.idLayout.densityLow ≤ 3) && decide (c.idLayout.mfrByte ≠ c.idLayout.densityByte) &&
    decide (21 ≤ c.xlen) && decide (c.xlen ≤ 32) &&
    decide (1 ≤ c.awSmall) && decide (c.awSmall ≤ 3) && decide (c.awSmall < c.awLarge) && decide (c.awLarge ≤ 4)

end Sys2Proof
end

