-- ==== Sys2Proof/Decode.lean ====
section
/-! DEFINITION. The decoder, total on any frame and any request word, rejecting by name, and the encoder
(spec/30_encoding.md R81, R85, R90, R91; spec/opcode_table.json). -/

namespace Sys2Proof

/-- Why a byte sequence is no frame of 30_encoding.md R81 and R85. -/
inductive DecodeError where
  /-- no byte at all -/
  | emptyFrame
  /-- a first byte that is no opcode of the map R85 -/
  | unknownOpcode (b : Byte)
  /-- an opcode of R85 in a frame of another length than its format's (R81) -/
  | frameLength (b : Byte) (n : Nat)
  /-- a bit above the 67 bits of `REQ` is set, or the width is that of no row -/
  | noSuchWidth (nbits : Nat)
deriving DecidableEq, Repr

/-- The decoder's answer. -/
inductive Decoded where
  | instr (i : Instr)
  | rejected (why : DecodeError)
deriving DecidableEq, Repr

/-- An encoded operation in one of the two encoding spaces (30_encoding.md R80). -/
inductive Code where
  | wire (bytes : List Byte)
  | host (req : BitVec 67)
deriving DecidableEq, Repr

/-- The opcode map of 30_encoding.md R85 knows this byte. -/
def knownOpcode (b : Byte) (c : Config.Cfg := Config.hw) : Bool := (opcodes c).contains b

/-- Reject a frame whose first byte is `b` and whose length is `n`. -/
def rejectFrame (b : Byte) (n : Nat) (c : Config.Cfg := Config.hw) : Decoded :=
  if knownOpcode b c then .rejected (.frameLength b n) else .rejected (.unknownOpcode b)

/-- The big-endian value of a byte sequence. -/
def bigEndianValue (bs : List Byte) : Nat := bs.foldl (fun acc b => acc * 256 + b.toNat) 0

/-- A wire frame, byte 0 first (30_encoding.md R81): format W0, and the two formats of an addressed command, whose
address fields have `AW_SMALL` bytes (W3) and `AW_LARGE` bytes (W4). DESIGN CHOICE: write-status, whose form the spec
does not give (R88), is its one opcode byte as the 8-bit row of spec/opcode_table.json has it, and with further bytes
it is rejected as `frameLength` (log 26). -/
def decodeFrame (bytes : List Byte) (c : Config.Cfg := Config.hw) : Decoded :=
  match bytes with
  | [] => .rejected .emptyFrame
  | [b] =>
    if b = c.opcRdsr then .instr .wRdsr
    else if b = c.opcWren then .instr .wWren
    else if b = c.opcRdid then .instr .wRdid
    else if b = c.opcWrsr then .instr .wWrsr
    else rejectFrame b 1 c
  | b :: field =>
    if field.length = c.awSmall then
      if b = c.opcWrite then .instr (.wWriteW3 (BitVec.ofNat 24 (bigEndianValue field)))
      else if b = c.opcRead then .instr (.wReadW3 (BitVec.ofNat 24 (bigEndianValue field)))
      else rejectFrame b (field.length + 1) c
    else if field.length = c.awLarge then
      if b = c.opcWrite then .instr (.wWriteW4 (BitVec.ofNat 32 (bigEndianValue field)))
      else if b = c.opcRead then .instr (.wReadW4 (BitVec.ofNat 32 (bigEndianValue field)))
      else rejectFrame b (field.length + 1) c
    else rejectFrame b (field.length + 1) c

/-- The fields of `REQ` (30_encoding.md R90) and the selector values (R91, R92): every word decodes. -/
def decodeReq (req : BitVec 67) : Instr :=
  let addr : Word := req.extractLsb' 32 32
  let len : Word := req.extractLsb' 0 32
  let op : BitVec 3 := req.extractLsb' 64 3
  if op = 0#3 then .reservedOp0 addr len
  else if op = 1#3 then .init addr len
  else if op = 2#3 then .read addr len
  else if op = 3#3 then .write addr len
  else if op = 4#3 then .clear addr len
  else if op = 5#3 then .erase addr len
  else if op = 6#3 then .reservedOp6 addr len
  else .reservedOp7 addr len

/-- The decoder over both spaces. -/
def decode (code : Code) (c : Config.Cfg := Config.hw) : Decoded :=
  match code with
  | .wire bytes => decodeFrame bytes c
  | .host req => .instr (decodeReq req)

/-- Byte `k` (0 the least significant) of a number. -/
def byteOf (w k : Nat) : Byte := BitVec.ofNat 8 (w / 2 ^ (8 * k))

/-- The `n` bytes of a number, most significant first: "the whole frame taken as one big-endian number". -/
def bigEndianBytes (n w : Nat) : List Byte := (List.range n).map fun i => byteOf w (n - 1 - i)

/-- A word of spec/opcode_table.json as a code: 8, 32 and 40 bits are wire frames, 72 bits (the 67 of `REQ` in
whole bytes; 67 as well) a host request. -/
def codeOfTableWord (nbits w : Nat) : Option Code :=
  if nbits = 8 then some (.wire (bigEndianBytes 1 w))
  else if nbits = 32 then some (.wire (bigEndianBytes 4 w))
  else if nbits = 40 then some (.wire (bigEndianBytes 5 w))
  else if nbits = 72 ∨ nbits = 67 then
    if w < 2 ^ 67 then some (.host (BitVec.ofNat 67 w)) else none
  else none

/-- The instruction behind a word numbered as spec/opcode_table.json numbers it. -/
def decodeTableWord (nbits w : Nat) : Option Instr :=
  match codeOfTableWord nbits w with
  | none => none
  | some c =>
    match decode c with
    | .instr i => some i
    | .rejected _ => none

/-! ### The encoder -/

/-- The request word with the given fields (30_encoding.md R90). -/
def reqWord (op : BitVec 3) (addr len : Word) : BitVec 67 := op ++ addr ++ len

/-- The encoding of an instruction; a micro-operation has none (30_encoding.md, head; spec/opcode_table.json). An
address field is sent most significant byte first (R81). -/
def encode (i : Instr) (c : Config.Cfg := Config.hw) : Option Code :=
  match i with
  | .wRdsr => some (.wire [c.opcRdsr])
  | .wWren => some (.wire [c.opcWren])
  | .wRdid => some (.wire [c.opcRdid])
  | .wWriteW3 a => some (.wire (c.opcWrite :: bigEndianBytes c.awSmall a.toNat))
  | .wWriteW4 a => some (.wire (c.opcWrite :: bigEndianBytes c.awLarge a.toNat))
  | .wReadW3 a => some (.wire (c.opcRead :: bigEndianBytes c.awSmall a.toNat))
  | .wReadW4 a => some (.wire (c.opcRead :: bigEndianBytes c.awLarge a.toNat))
  | .wWrsr => some (.wire [c.opcWrsr])
  | .init addr len => some (.host (reqWord 1#3 addr len))
  | .read addr len => some (.host (reqWord 2#3 addr len))
  | .write addr len => some (.host (reqWord 3#3 addr len))
  | .clear addr len => some (.host (reqWord 4#3 addr len))
  | .erase addr len => some (.host (reqWord 5#3 addr len))
  | .reservedOp0 addr len => some (.host (reqWord 0#3 addr len))
  | .reservedOp6 addr len => some (.host (reqWord 6#3 addr len))
  | .reservedOp7 addr len => some (.host (reqWord 7#3 addr len))
  | .findDensity _ => none
  | .idDecode => none
  | .aw _ => none
  | .getId => none
  | .getWel => none
  | .setWel => none
  | .frame _ _ => none
  | .bounds _ _ _ => none

/-- The bytes of an instruction's frame; empty for one that is no wire command. -/
def frameBytes (i : Instr) (c : Config.Cfg := Config.hw) : List Byte :=
  match encode i c with
  | some (.wire bytes) => bytes
  | some (.host _) => []
  | none => []

/-- A line of a host program as the request it stands for (30_encoding.md R94, R91); the fields an operation
ignores are zero, as in the request words of 95_test_vectors.md section 3. -/
def Line.request : Line → Request
  | .init => ⟨reqWord 1#3 0#32 0#32, []⟩
  | .read addr len => ⟨reqWord 2#3 addr len, []⟩
  | .write addr bytes => ⟨reqWord 3#3 addr (BitVec.ofNat 32 bytes.length), bytes⟩
  | .clear addr len => ⟨reqWord 4#3 addr len, []⟩
  | .erase => ⟨reqWord 5#3 0#32 0#32, []⟩

end Sys2Proof
end

