-- ==== Sys2Proof/Machine/State.lean ====
section
/-! DEFINITION. Everything the spec gives the controller (spec/10_state.md R20), its inputs held as plain data, and the state after reset. -/

namespace Sys2Proof.Machine

/-- Why a step faults: never. spec/93_implementation_defined.md, Part 1: "No behaviour in this hardware is
treated as `fault` or `stuck` in the model's sense"; the six errors are ordinary results (60_exceptions.md R212).
Nobody raises one, which is neither safe nor unsafe. -/
inductive Fault where
deriving DecidableEq, Repr

/-- Why a step is refused: the operation has no meaning in the spec. -/
inductive Refusal where
  /-- exec, for an instruction without a meaning yet; safe -/
  | notModelled (mnemonic : String)
  /-- READ, WRITE, CLEAR, ERASE accepted while `Usable` is false (43_data_operations.md R174, U4); safe -/
  | notUsable
  /-- a request with a reserved selector (30_encoding.md R92, U5); safe -/
  | reservedSelector (op : BitVec 3)
  /-- write-status, which no rule issues and whose format and effect the spec does not give (30_encoding.md R88, U8); safe -/
  | writeStatusNeverIssued
  /-- the data command phase with an operation or a density code for which no rule gives a command
  (10_state.md R30, 40_density_and_id.md R114, U6; no reachable state); safe, log 22 -/
  | noCommand
  /-- a command frame outside the opcode map, which no rule builds (30_encoding.md R89; no reachable state); safe, log 22 -/
  | undecodable (why : DecodeError)
deriving DecidableEq, Repr

/-- The identification register: four bytes in order of receipt (10_state.md R22). -/
structure IdReg where
  b0 : Byte
  b1 : Byte
  b2 : Byte
  b3 : Byte
deriving DecidableEq, Repr

/-- The result codes (10_state.md R33, 60_exceptions.md R210); 7 is never produced. -/
inductive Result where
  | ok
  | csError
  | spiError
  | unknownDensity
  | manufacturerIdError
  | timeoutError
  | addressError
deriving DecidableEq, Repr

/-- The values the register `OP` takes: 0 after reset, then the selector of the accepted operation
(10_state.md R20, 30_encoding.md R91). Log 13. -/
inductive OpSel where
  | unset
  | init
  | read
  | write
  | clear
  | erase
deriving DecidableEq, Repr

/-- The sequencer phases, in the order of the table of 10_state.md R30. -/
inductive Phase where
  | idle
  | iSel
  | iTx
  | iRx
  | iDes
  | iDec
  | dChk
  | wT0
  | wSel
  | wTx
  | wDes
  | pSel
  | pTx
  | pRx
  | pDes
  | pTime
  | dSel
  | dCmd
  | dWr
  | dRd
  | dClr
  | dDes
deriving DecidableEq, Repr

/-- `RDATA`: the bytes a READ returned, or `any` (43_data_operations.md R171 (b)), kept as the number of the
draw its first byte is and their count. Log 11. -/
inductive ReadData where
  | bytes (bs : List Byte)
  | any (seed n : Nat)
deriving DecidableEq, Repr

/-- A transport call with its answer: the tokens of 30_encoding.md R94. -/
inductive Call where
  | sel (ok : Bool)
  | des (ok : Bool)
  | tx (bytes : List Byte) (ok : Bool)
  | rx (n : Nat) (answer : Option (List Byte))
  | now (t : Word)
deriving DecidableEq, Repr

/-- An answer fixed in advance for one transport call (20_memory.md R52). `own`, and an answer that is not of
the call's type, leave the call to the environment. Logs 1 and 2. -/
inductive Reply where
  | own
  | ok
  | fail
  | bytes (bs : List Byte)
  | time (t : Word)
deriving DecidableEq, Repr

/-- The array of the chip, byte addressed (20_memory.md R56): cells at rising addresses, none equal to what an
unlisted address reads as. Log 5. -/
structure Memory where
  /-- what an unlisted address reads as -/
  fill : Byte
  cells : List Host.Cell
deriving DecidableEq, Repr

/-- How many status reads after a write-enable still answer "clear" (95_test_vectors.md section 4, `lag`;
program P4 takes it infinite). -/
inductive Lag where
  | reads (n : Nat)
  | forever
deriving DecidableEq, Repr

/-- The reference responder of 95_test_vectors.md section 4: adapter plus chip. Log 4. -/
structure Chip where
  mem : Memory
  latch : Bool
  cs : Bool
  cmd : Option Byte
  ptr : Nat
  pending : Lag
  clock : List Word
  idBytes : IdReg
  cap : Nat
  width : Nat
  lag : Lag
deriving DecidableEq, Repr

/-- What stands behind the transport port, and what has passed over it. -/
structure Env where
  /-- answers fixed in advance, one a call, next call first -/
  script : List Reply
  /-- the reference responder, where one is attached; otherwise every answer is free -/
  chip : Option Chip
  /-- the model's own counter of free values drawn so far (log 3) -/
  draws : Nat
  /-- every call made, newest first (20_memory.md R68; log 7) -/
  history : List Call
deriving DecidableEq, Repr

/-- What a micro-operation hands back to its caller when it is executed on its own (00_scope.md R14; log 15). -/
inductive MicroAnswer where
  | unset
  | capacity (c : Option Word)
  | fields (mfr : Byte) (density : BitVec 5)
  | width (w : Option Nat)
  | status (r : Result)
  | wel (set : Bool)
  | frame (bytes : Option (List Byte))
  /-- no end: SET_WEL is still running, and its next execution goes on with it (log 16) -/
  | polling
deriving DecidableEq, Repr

/-- The registers of 10_state.md R20, the two data streams, the host's and the transport's inputs, and the
model's own `micro`. -/
structure State where
  idr : IdReg
  sr : Byte
  size : Word
  result : Result
  op : OpSel
  addr : Word
  len : Word
  seq : Phase
  t0 : Word
  idx : Word
  wdata : List Byte
  rdata : ReadData
  /-- the request presented now (10_state.md R32; log 8) -/
  request : Option Request
  /-- the requests the host presents next, one each time the controller is idle (R41, R42; log 8) -/
  program : List Request
  /-- the host's reset event (R42; log 8) -/
  resetLine : Bool
  env : Env
  micro : MicroAnswer
deriving DecidableEq, Repr

/-- Nothing attached, nothing scripted, nothing sent (70_reset_and_hazards.md R242: the outside is unspecified). -/
def Env.reset : Env where
  script := []
  chip := none
  draws := 0
  history := []

/-- 70_reset_and_hazards.md R240 for the registers; the streams, the inputs and the model's own fields: logs 1, 3, 4, 7, 8, 15, 21. -/
def State.reset : State where
  idr := ⟨0x00#8, 0x00#8, 0x00#8, 0x00#8⟩
  sr := 0x00#8
  size := 0#32
  result := .ok
  op := .unset
  addr := 0#32
  len := 0#32
  seq := .idle
  t0 := 0#32
  idx := 0#32
  wdata := []
  rdata := .bytes []
  request := none
  program := []
  resetLine := false
  env := Env.reset
  micro := .unset

end Sys2Proof.Machine
end

