-- ==== Sys2Proof/Machine/Operands.lean ====
section
/-! DEFINITION. The operand forms: the fields of IDR, the density lookup, the address width and the address
field of a command (spec/40_density_and_id.md, spec/42_framing_and_bounds.md). -/

namespace Sys2Proof.Machine

open Config (Cfg)

/-- A quantity as a register of `XLEN` bits holds it (00_scope.md R7): the registers have 32 bits (10_state.md R20),
and a smaller `XLEN` keeps the low ones. -/
def regWord (c : Cfg) (w : Word) : Word := if 32 ≤ c.xlen then w else BitVec.ofNat 32 (w.toNat % 2 ^ c.xlen)

/-- Byte `i` of IDR in order of receipt (10_state.md R22). -/
def IdReg.byte (r : IdReg) (i : Fin 4) : Byte :=
  if i = 0 then r.b0 else if i = 1 then r.b1 else if i = 2 then r.b2 else r.b3

/-- IDR from the four bytes received, first byte `b0` (40_density_and_id.md R116). -/
def IdReg.ofBytes (bs : List Byte) : IdReg := ⟨bs.getD 0 0, bs.getD 1 0, bs.getD 2 0, bs.getD 3 0⟩

/-- The 32-bit integer view of IDR, `b0` least significant (10_state.md R22). -/
def IdReg.view (r : IdReg) : Word := r.b3 ++ r.b2 ++ r.b1 ++ r.b0

/-- `MFR(IDR)` (40_density_and_id.md R112). -/
def mfr (c : Cfg) (r : IdReg) : Byte := r.byte c.idLayout.mfrByte

/-- `DENSITY(IDR)` (40_density_and_id.md R112). -/
def density (c : Cfg) (r : IdReg) : BitVec 5 := (r.byte c.idLayout.densityByte).extractLsb' c.idLayout.densityLow 5

/-- The table scan of FIND_DENSITY, in table order. -/
def lookupDensity (d : BitVec 5) : List (BitVec 5 × Word) → Option Word
  | [] => none
  | (code, cap) :: rest => if code = d then some cap else lookupDensity d rest

/-- FIND_DENSITY (40_density_and_id.md R111); `none` is `UnknownDensity`. -/
def findDensity (c : Cfg) (d : BitVec 5) : Option Word := lookupDensity d c.densityTable

/-- AW (40_density_and_id.md R114); `none` where the spec leaves it undefined (U6). -/
def addressWidth (c : Cfg) (d : BitVec 5) : Option Nat :=
  (findDensity c d).map fun cap => if cap.toNat ≤ c.awLimit.toNat then c.awSmall else c.awLarge

/-- The value the address bytes are taken from, by frame mode (42_framing_and_bounds.md R150). -/
def frameValue (c : Cfg) (a : Word) : Word :=
  match c.frameMode with
  | .corrected => a
  | .legacy => a &&& 0xFF#32

/-- The `w` address bytes, most significant first (42_framing_and_bounds.md R150, 20_memory.md R59). -/
def addressBytes (c : Cfg) (w : Nat) (a : Word) : List Byte :=
  (List.range w).map fun i => (frameValue c a >>> (8 * (w - 1 - i))).setWidth 8

/-- FRAME (42_framing_and_bounds.md R150): the width is recomputed from IDR at every call (10_state.md R28). -/
def frame (c : Cfg) (r : IdReg) (opc : Byte) (a : Word) : Option (List Byte) :=
  (addressWidth c (density c r)).map fun w => opc :: addressBytes c w a

/-- The opcode of an operation's data command (10_state.md R30, row D_CMD). -/
def OpSel.opcode (c : Cfg) : OpSel → Option Byte
  | .read => some c.opcRead
  | .write => some c.opcWrite
  | .clear => some c.opcWrite
  | .erase => some c.opcWrite
  | .init => none
  | .unset => none

/-- The number of an operation selector (30_encoding.md R91). -/
def OpSel.code : OpSel → BitVec 3
  | .unset => 0#3
  | .init => 1#3
  | .read => 2#3
  | .write => 3#3
  | .clear => 4#3
  | .erase => 5#3

/-- The number of a result (10_state.md R33, 30_encoding.md R93). -/
def Result.code : Result → BitVec 3
  | .ok => 0#3
  | .csError => 1#3
  | .spiError => 2#3
  | .unknownDensity => 3#3
  | .manufacturerIdError => 4#3
  | .timeoutError => 5#3
  | .addressError => 6#3

/-- The bytes of a READ's output stream; an `any` reads as free bytes (43_data_operations.md R171). -/
def ReadData.toBytes : ReadData → List Byte
  | .bytes bs => bs
  | .any seed n => (List.range n).map fun i => Config.freeByte (seed + i)

end Sys2Proof.Machine
end

