-- ==== Sys2Proof/Machine/Flags.lean ====
section
/-! DEFINITION. The tests the controller makes: the WEL flag (spec/10_state.md R37), the manufacturer compare, the
bounds check, the timeout, and `Usable`. -/

namespace Sys2Proof.Machine

open Config (Cfg)

/-- `SR[WEL_BIT]` (10_state.md R24, R37). -/
def welSet (c : Cfg) (sr : Byte) : Bool := sr.getLsbD c.welBit

/-- The manufacturer check (40_density_and_id.md R113). -/
def manufacturerOk (c : Cfg) (r : IdReg) : Bool := decide (mfr c r = c.mfrAccept)

/-- BOUNDS (42_framing_and_bounds.md R156): the sum is formed without wraparound. -/
def boundsOk (size a n : Word) : Bool := decide (a.toNat + n.toNat ≤ size.toNat)

/-- The original code's idiom, described and not used (42_framing_and_bounds.md R157). -/
def idiomAccepts (size a n : Word) : Bool := decide ((size - a - n).toNat ≤ size.toNat)

/-- The timeout condition (41_wel_handshake.md R134): difference modulo 2^`XLEN`, strict. -/
def timedOut (c : Cfg) (t t0 : Word) : Bool := decide (c.maxTimeoutMs.toNat < (regWord c (t - t0)).toNat)

/-- `Usable` (10_state.md R29) over the registers it reads. -/
def usableRegs (c : Cfg) (r : IdReg) (size : Word) : Bool :=
  decide (findDensity c (density c r) = some size) && manufacturerOk c r

/-- `Usable(S)` (10_state.md R29). -/
def State.usable (s : State) (c : Cfg := Config.hw) : Bool := usableRegs c s.idr s.size

end Sys2Proof.Machine
end

