-- ==== Sys2Proof/Machine/Memory.lean ====
section
/-! DEFINITION. The chip's array as a canonical list of cells (spec/20_memory.md R56, R57; log 5). -/

namespace Sys2Proof.Machine

/-- The byte listed at an address. -/
def lookupCell (a : Nat) : List Host.Cell → Option Byte
  | [] => none
  | (k, v) :: rest => if k = a then some v else lookupCell a rest

/-- Put a byte at an address, keeping the addresses rising. -/
def insertCell (a : Nat) (b : Byte) : List Host.Cell → List Host.Cell
  | [] => [(a, b)]
  | (k, v) :: rest =>
    if a < k then (a, b) :: (k, v) :: rest
    else if a = k then (a, b) :: rest
    else (k, v) :: insertCell a b rest

/-- Take every cell at an address out (in the canonical form there is at most one). -/
def removeCell (a : Nat) : List Host.Cell → List Host.Cell
  | [] => []
  | (k, v) :: rest => if a = k then removeCell a rest else (k, v) :: removeCell a rest

/-- `MemRead(a, 1)` of 00_scope.md R13. -/
def Memory.read (m : Memory) (a : Nat) : Byte := (lookupCell a m.cells).getD m.fill

/-- `MemWrite(a, 1, b)` of 00_scope.md R13. -/
def Memory.write (m : Memory) (a : Nat) (b : Byte) : Memory :=
  if b = m.fill then { m with cells := removeCell a m.cells } else { m with cells := insertCell a b m.cells }

/-- Bytes at consecutive rising addresses (20_memory.md R57). -/
def Memory.store (m : Memory) (a : Nat) : List Byte → Memory
  | [] => m
  | b :: rest => (m.write a b).store (a + 1) rest

/-- The bytes at `n` consecutive addresses. -/
def Memory.load (m : Memory) (a n : Nat) : List Byte := (List.range n).map fun k => m.read (a + k)

/-- The canonical form: addresses strictly rising, no cell equal to what an unlisted address reads as. -/
abbrev Memory.wf (m : Memory) : Prop :=
  m.cells.Pairwise (fun x y => x.1 < y.1) ∧ ∀ c ∈ m.cells, c.2 ≠ m.fill

/-- The canonical form, and no cell at or above the capacity `cap`. -/
abbrev Memory.within (m : Memory) (cap : Nat) : Prop := ∀ c ∈ m.cells, c.1 < cap

end Sys2Proof.Machine
end

