-- ==== Sys2Proof/Machine/Chip.lean ====
section
/-! DEFINITION. The reference responder of spec/95_test_vectors.md section 4. `none`: the section says nothing
about this call, and the responder is then taken off (log 4). A fixture of this hardware: it knows `hw`'s opcodes. -/

namespace Sys2Proof.Machine

/-- `select()`: `cs <- true; cmd <- none`. -/
def Chip.select (c : Chip) : Chip := { c with cs := true, cmd := none }

/-- `deselect()`: a write bracket clears the latch; `cs <- false`. -/
def Chip.deselect (c : Chip) : Chip :=
  { c with latch := if c.cmd = some Config.hw.opcWrite then false else c.latch, cs := false }

/-- The first transmit of a bracket: the command byte and, for 0x02 and 0x03, the address. -/
def Chip.command (c : Chip) : List Byte → Option Chip
  | [] => none
  | op :: rest =>
    if op = Config.hw.opcWren then some { c with cmd := some op, latch := true, pending := c.lag }
    else if op = Config.hw.opcWrite ∨ op = Config.hw.opcRead then
      if c.width ≤ rest.length then
        some { c with cmd := some op, ptr := bigEndianValue (rest.take c.width) }
      else none
    else some { c with cmd := some op }

/-- A further transmit of a write bracket: data, stored while the latch is set. -/
def Chip.writeData (c : Chip) (bs : List Byte) : Option Chip :=
  if c.latch then
    if c.ptr + bs.length ≤ c.cap then
      some { c with mem := c.mem.store c.ptr bs, ptr := c.ptr + bs.length }
    else none
  else some c

/-- `transmit(s)`. -/
def Chip.transmit (c : Chip) (bs : List Byte) : Option Chip :=
  if c.cs then
    match c.cmd with
    | none => c.command bs
    | some op => if op = Config.hw.opcWrite then c.writeData bs else none
  else none

/-- One status read: clear while `pending` lasts, then the latch in bit `WEL_BIT`. -/
def Chip.status (c : Chip) : Byte × Chip :=
  match c.pending with
  | .forever => (0x00#8, c)
  | .reads (n + 1) => (0x00#8, { c with pending := .reads n })
  | .reads 0 => (if c.latch then 0x02#8 else 0x00#8, c)

/-- `receive(n)`, with the bytes of the answer. -/
def Chip.receive (c : Chip) (n : Nat) : Option (List Byte × Chip) :=
  if c.cs then
    if c.cmd = some Config.hw.opcRdid then
      if n = 4 then some ([c.idBytes.b0, c.idBytes.b1, c.idBytes.b2, c.idBytes.b3], c) else none
    else if c.cmd = some Config.hw.opcRdsr then
      if n = 1 then some ([c.status.1], c.status.2) else none
    else if c.cmd = some Config.hw.opcRead then
      if c.ptr + n ≤ c.cap then some (c.mem.load c.ptr n, { c with ptr := c.ptr + n }) else none
    else none
  else none

/-- `now_ms()`: the next value of the clock script; `none` when it is used up. -/
def Chip.now (c : Chip) : Option (Word × Chip) :=
  match c.clock with
  | [] => none
  | t :: rest => some (t, { c with clock := rest })

/-- The responder's array is canonical and lies below its capacity. -/
abbrev Chip.wf (c : Chip) : Prop := c.mem.wf ∧ c.mem.within c.cap

end Sys2Proof.Machine
end

