-- ==== Sys2Proof/Machine/Transport.lean ====
section
/-! DEFINITION. The five transport primitives of spec/20_memory.md R50, answered by the script, the attached
responder or free values (R52; logs 1 to 4). Each is one call, answered at once (R51), and logged (R68). -/

namespace Sys2Proof.Machine

/-- `n` free bytes, from draw `seed` on (`any` of 00_scope.md R15). -/
def freeBytes (seed n : Nat) : List Byte := (List.range n).map fun i => Config.freeByte (seed + i)

namespace Env

/-- The answer fixed in advance for the next call. -/
def reply (e : Env) : Reply := e.script.headD .own

/-- The next call's place in the script is used up. -/
def popReply (e : Env) : Env := { e with script := e.script.tail }

/-- The environment is no longer the reference responder. -/
def detach (e : Env) : Env := { e with chip := none }

/-- Log a call. -/
def record (c : Call) (e : Env) : Env := { e with history := c :: e.history }

/-- Use up `n` free values. -/
def skip (n : Nat) (e : Env) : Env := { e with draws := e.draws + n }

/-- A free ok or fail. -/
def freeAck (e : Env) : Bool × Env := (Config.freeOk e.draws, e.skip 1)

/-- A free answer of `receive(n)`: fail, or any `n` bytes. -/
def freeReceive (n : Nat) (e : Env) : Option (List Byte) × Env :=
  (if Config.freeOk e.draws then some (freeBytes (e.draws + 1) n) else none, e.skip (n + 1))

/-- The environment's own answer of `select()`. -/
def ownSelect (e : Env) : Bool × Env :=
  match e.chip with
  | some c => (true, { e with chip := some c.select })
  | none => e.freeAck

/-- The environment's own answer of `deselect()`. -/
def ownDeselect (e : Env) : Bool × Env :=
  match e.chip with
  | some c => (true, { e with chip := some c.deselect })
  | none => e.freeAck

/-- The environment's own answer of `transmit(bs)`. -/
def ownTransmit (bs : List Byte) (e : Env) : Bool × Env :=
  match e.chip with
  | some c =>
    match c.transmit bs with
    | some c' => (true, { e with chip := some c' })
    | none => e.detach.freeAck
  | none => e.freeAck

/-- The environment's own answer of `receive(n)`. -/
def ownReceive (n : Nat) (e : Env) : Option (List Byte) × Env :=
  match e.chip with
  | some c =>
    match c.receive n with
    | some (bs, c') => (some bs, { e with chip := some c' })
    | none => e.detach.freeReceive n
  | none => e.freeReceive n

/-- The environment's own answer of `now_ms()`. -/
def ownNow (e : Env) : Word × Env :=
  match e.chip with
  | some c =>
    match c.now with
    | some (t, c') => (t, { e with chip := some c' })
    | none => (Config.freeWord e.draws, e.skip 1)
  | none => (Config.freeWord e.draws, e.skip 1)

/-- An ok-or-fail answer: the script's where it gives one (a scripted fail leaves the responder as it was, a
scripted ok takes it off), else the environment's own. -/
def ack (own : Env → Bool × Env) (e : Env) : Bool × Env :=
  match e.reply with
  | .ok => (true, e.popReply.detach)
  | .fail => (false, e.popReply)
  | .own => own e.popReply
  | .bytes _ => own e.popReply
  | .time _ => own e.popReply

/-- `T.select()` -/
def select (e : Env) : Bool × Env :=
  ((e.ack ownSelect).1, (e.ack ownSelect).2.record (.sel (e.ack ownSelect).1))

/-- `T.deselect()` -/
def deselect (e : Env) : Bool × Env :=
  ((e.ack ownDeselect).1, (e.ack ownDeselect).2.record (.des (e.ack ownDeselect).1))

/-- `T.transmit(bs)`: the bytes of one call, first byte first (20_memory.md R53). -/
def transmit (bs : List Byte) (e : Env) : Bool × Env :=
  ((e.ack (ownTransmit bs)).1, (e.ack (ownTransmit bs)).2.record (.tx bs (e.ack (ownTransmit bs)).1))

/-- The answer of `receive(n)`: a scripted byte sequence counts when it has exactly `n` bytes (R50). -/
def receiveAnswer (n : Nat) (e : Env) : Option (List Byte) × Env :=
  match e.reply with
  | .bytes bs => if bs.length = n then (some bs, e.popReply.detach) else ownReceive n e.popReply
  | .fail => (none, e.popReply)
  | .own => ownReceive n e.popReply
  | .ok => ownReceive n e.popReply
  | .time _ => ownReceive n e.popReply

/-- `T.receive(n)` -/
def receive (n : Nat) (e : Env) : Option (List Byte) × Env :=
  ((e.receiveAnswer n).1, (e.receiveAnswer n).2.record (.rx n (e.receiveAnswer n).1))

/-- The answer of `now_ms()`. -/
def nowAnswer (e : Env) : Word × Env :=
  match e.reply with
  | .time t => (t, e.popReply)
  | .own => ownNow e.popReply
  | .ok => ownNow e.popReply
  | .fail => ownNow e.popReply
  | .bytes _ => ownNow e.popReply

/-- `T.now_ms()`; it cannot fail. -/
def now (e : Env) : Word × Env := (e.nowAnswer.1, e.nowAnswer.2.record (.now e.nowAnswer.1))

end Env

end Sys2Proof.Machine
end

