-- ==== Sys2Proof/Machine/Ops.lean ====
section
/-! DEFINITION. The shared operations over the registers: moving the sequencer, ending an operation, abort
(spec/60_exceptions.md R214), request acceptance (spec/10_state.md R32), the host's reads (R34) and reset. -/

namespace Sys2Proof.Machine

open Config (Cfg hw)

/-- `SEQ <- p` -/
def State.goto (p : Phase) (s : State) : State := { s with seq := p }

/-- What stands behind the port after a call. -/
def State.setEnv (e : Env) (s : State) : State := { s with env := e }

/-- A READ that does not return Ok leaves `RDATA` as `any` (43_data_operations.md R171 (b)); the other
operations have no output stream. -/
def State.spoilRdata (s : State) : State :=
  if s.op = .read then { s with rdata := .any s.env.draws s.len.toNat, env := s.env.skip s.len.toNat } else s

/-- Abort, the hardware's trap entry (60_exceptions.md R214, 00_scope.md R14): `RESULT <- E; SEQ <- IDLE`, no
further call, nothing restored. -/
def State.raise (r : Result) (s : State) : State := { s.spoilRdata with result := r, seq := .idle }

/-- finish Ok (10_state.md R30). There is no return from a trap: the host's next request is accepted like any
other (60_exceptions.md R216). -/
def State.finishOk (s : State) : State := { s with result := .ok, seq := .idle }

/-- Take the edge of an ok-or-fail call: the environment moves on, then one of the two continuations. -/
def State.onAck (call : Bool × Env) (good bad : State → State) (s : State) : State :=
  if call.1 then good (s.setEnv call.2) else bad (s.setEnv call.2)

/-- `IDR <- bytes` (40_density_and_id.md R116). -/
def State.setIdr (bs : List Byte) (s : State) : State := { s with idr := IdReg.ofBytes bs }

/-- `IDR <- any` (40_density_and_id.md R116 (b), U1): four free bytes. -/
def State.anyIdr (s : State) : State :=
  { s with idr := IdReg.ofBytes (freeBytes s.env.draws 4), env := s.env.skip 4 }

/-- `SR <- byte` (41_wel_handshake.md R131). -/
def State.setSr (bs : List Byte) (s : State) : State := { s with sr := bs.getD 0 0 }

/-- `SR <- any` (41_wel_handshake.md R131 (b), U2): one free byte. -/
def State.anySr (s : State) : State := { s with sr := Config.freeByte s.env.draws, env := s.env.skip 1 }

/-- `T0 <- T.now_ms()` (41_wel_handshake.md R133). -/
def State.readT0 (s : State) (c : Cfg := hw) : State := { s with t0 := regWord c s.env.now.1, env := s.env.now.2 }

/-- `SIZE <- capacity` (44_init.md R200). -/
def State.setSize (cap : Word) (s : State) (c : Cfg := hw) : State := { s with size := regWord c cap }

/-- `RDATA <- bytes` (43_data_operations.md R171). -/
def State.setRdata (bs : List Byte) (s : State) : State := { s with rdata := .bytes bs }

/-- `IDX <- 0` and on to the clear loop (10_state.md R30, row D_CMD). -/
def State.startClear (s : State) : State := { s with idx := 0#32, seq := .dClr }

/-- `IDX <- IDX +32 1` (43_data_operations.md R172). -/
def State.bumpIdx (s : State) (c : Cfg := hw) : State := { s with idx := regWord c (s.idx + 1#32) }

/-- The `LEN` bytes a WRITE transmits: what the host presented, a surplus left out, what is missing free (log 10). -/
def State.writeBytes (s : State) : List Byte :=
  s.wdata.take s.len.toNat ++ freeBytes s.env.draws (s.len.toNat - s.wdata.length)

/-- The environment after `writeBytes` drew what was missing. -/
def State.writeEnv (s : State) : Env := s.env.skip (s.len.toNat - s.wdata.length)

/-- Hand an answer of a micro-operation to its caller (00_scope.md R14; log 15). -/
def State.answer (m : MicroAnswer) (s : State) : State := { s with micro := m }

/-- Request acceptance: `OP <- op; ADDR <- addr; LEN <- len`, and on to the operation's first phase (10_state.md R32).
DESIGN CHOICE where R20 is silent: RDATA keeps what the last READ left (log 27). -/
def State.accept (op : OpSel) (addr len : Word) (p : Phase) (s : State) (c : Cfg := hw) : State :=
  { s with op := op, addr := regWord c addr, len := regWord c len, seq := p }

/-- Acceptance of a data operation with the operands it will run on: not while busy (10_state.md R32), no
meaning unless `Usable` (43_data_operations.md R174). -/
def State.acceptData (op : OpSel) (addr len : Word) (s : State) (c : Cfg := hw) : Host.Outcome State Fault Refusal :=
  if s.seq = .idle then
    if s.usable c then .next (s.accept op addr len .dChk c) else .refused .notUsable
  else .next s

/-- A reset of the controller (70_reset_and_hazards.md R240, R242): no transport call, the operation in progress
dropped, the environment and the host's own list of requests as they were (log 21). -/
def State.applyReset (s : State) : State := { State.reset with env := s.env, program := s.program }

/-- What the host may read: the registers of 10_state.md R34 and R42, and of `SEQ` the one bit that the table of R20
gives it, busy = `SEQ != IDLE` (log 20). -/
inductive HostReg where
  | idr
  | sr
  | size
  | result
  | busy
deriving DecidableEq, Repr

/-- A register's bits on a 32-bit read. -/
def HostReg.value (s : State) : HostReg → Word
  | .idr => s.idr.view
  | .sr => s.sr.setWidth 32
  | .size => s.size
  | .result => s.result.code.setWidth 32
  | .busy => if s.seq = .idle then 0#32 else 1#32

/-- The bits a register has. -/
def HostReg.mask : HostReg → Word
  | .idr => 0xFFFFFFFF#32
  | .sr => 0xFF#32
  | .size => 0xFFFFFFFF#32
  | .result => 0x7#32
  | .busy => 0x1#32

/-- The number a register's free values are drawn under (log 20). -/
def HostReg.number : HostReg → Nat
  | .idr => 0
  | .sr => 1
  | .size => 2
  | .result => 3
  | .busy => 4

/-- A host read, with the state after it. Busy reads as it is at any time (10_state.md R20). A register reads as it is
while idle, and while an operation runs as `any`, a free value of its own for every register and every read (R34, U14;
log 20). -/
def State.hostRead (r : HostReg) (s : State) : Word × State :=
  if s.seq = .idle ∨ r = .busy then (r.value s, s)
  else (Config.freeHostRead r.number s.env.draws &&& r.mask, s.setEnv (s.env.skip 1))

/-- One byte of the attached responder's array; none where no responder is attached or the address is beyond it. -/
def State.memRead (s : State) (a : Nat) : Option Byte :=
  match s.env.chip with
  | some c => if a < c.cap then some (c.mem.read a) else none
  | none => none

end Sys2Proof.Machine
end

