-- ==== Sys2Proof/Machine/HostOps.lean ====
section
/-! DEFINITION. The host operations: executing one is its acceptance (spec/10_state.md R32 and the IDLE row of
R30); the sequencer's phases then run it. The reserved selectors are refused (spec/30_encoding.md R92). -/

namespace Sys2Proof.Machine

open Config (Cfg hw)

/-- INIT (44_init.md R200): accepted while idle, whatever `addr` and `len` are; no effect while busy (10_state.md R32). -/
def execInit (addr len : Word) (s : State) (c : Cfg := hw) : Host.Outcome State Fault Refusal :=
  if s.seq = .idle then .next (s.accept .init addr len .iSel c) else .next s

/-- READ (43_data_operations.md R171). -/
def execRead (addr len : Word) (s : State) (c : Cfg := hw) : Host.Outcome State Fault Refusal :=
  s.acceptData .read addr len c

/-- WRITE (43_data_operations.md R170). -/
def execWrite (addr len : Word) (s : State) (c : Cfg := hw) : Host.Outcome State Fault Refusal :=
  s.acceptData .write addr len c

/-- CLEAR (43_data_operations.md R172). -/
def execClear (addr len : Word) (s : State) (c : Cfg := hw) : Host.Outcome State Fault Refusal :=
  s.acceptData .clear addr len c

/-- ERASE (43_data_operations.md R173, 30_encoding.md R95): the request's fields are ignored, `ADDR <- 0; LEN <- SIZE`. -/
def execErase (_addr _len : Word) (s : State) (c : Cfg := hw) : Host.Outcome State Fault Refusal :=
  s.acceptData .erase 0#32 s.size c

/-- Reserved selector 0 (30_encoding.md R92, U5). -/
def execReservedOp0 (_addr _len : Word) (_s : State) (_c : Cfg := hw) : Host.Outcome State Fault Refusal :=
  .refused (.reservedSelector 0#3)

/-- Reserved selector 6 (30_encoding.md R92, U5). -/
def execReservedOp6 (_addr _len : Word) (_s : State) (_c : Cfg := hw) : Host.Outcome State Fault Refusal :=
  .refused (.reservedSelector 6#3)

/-- Reserved selector 7 (30_encoding.md R92, U5). -/
def execReservedOp7 (_addr _len : Word) (_s : State) (_c : Cfg := hw) : Host.Outcome State Fault Refusal :=
  .refused (.reservedSelector 7#3)

end Sys2Proof.Machine
end

