-- ==== Sys2Proof/Machine/Sequence.lean ====
section
/-! DEFINITION. Chains of transport calls with the fail-fast rule, and the micro-operations and host operations as
the spec's pseudocode gives them (the `4N` files of spec/, which govern over the phase table, 10_state.md R30). -/

namespace Sys2Proof.Machine

open Config (Cfg hw)

/-- `try`: go on only after a step that answered Ok (00_scope.md R14, 43_data_operations.md R175). -/
def andThen (p : Result × State) (k : State → Result × State) : Result × State :=
  if p.1 = .ok then k p.2 else p

/-- A `select` or `deselect`, whose failure is CsError (00_scope.md R12). -/
def callCs (call : Env → Bool × Env) (s : State) : Result × State :=
  (if (call s.env).1 then .ok else .csError, s.setEnv (call s.env).2)

/-- A `transmit`, whose failure is SpiError (00_scope.md R12). -/
def callTx (bs : List Byte) (s : State) : Result × State :=
  (if (s.env.transmit bs).1 then .ok else .spiError, s.setEnv (s.env.transmit bs).2)

/-- A `receive(n)`, whose failure is SpiError: `store` takes the bytes, `spoil` what a failure leaves. -/
def callRx (n : Nat) (store : List Byte → State → State) (spoil : State → State) (s : State) : Result × State :=
  match (s.env.receive n).1 with
  | some bs => (.ok, store bs (s.setEnv (s.env.receive n).2))
  | none => (.spiError, spoil (s.setEnv (s.env.receive n).2))

/-- GET_ID (40_density_and_id.md R116). -/
def getId (s : State) (c : Cfg := hw) : Result × State :=
  andThen (andThen (andThen (callCs Env.select s) (callTx (frameBytes .wRdid c)))
    (callRx c.idLen State.setIdr State.anyIdr)) (callCs Env.deselect)

/-- The four calls of GET_WEL (41_wel_handshake.md R131). -/
def statusExchange (s : State) (c : Cfg := hw) : Result × State :=
  andThen (andThen (andThen (callCs Env.select s) (callTx (frameBytes .wRdsr c)))
    (callRx c.srLen State.setSr State.anySr)) (callCs Env.deselect)

/-- GET_WEL (41_wel_handshake.md R131): SET only after four calls that succeeded; every failure is RESET. -/
def getWel (s : State) (c : Cfg := hw) : Bool × State :=
  (decide ((statusExchange s c).1 = .ok) && welSet c (statusExchange s c).2.sr, (statusExchange s c).2)

/-- The write-enable bracket of SET_WEL (41_wel_handshake.md R133). -/
def welBracket (s : State) (c : Cfg := hw) : Result × State :=
  andThen (andThen (callCs Env.select s) (callTx (frameBytes .wWren c))) (callCs Env.deselect)

/-- The polling loop of SET_WEL, at most `polls` times round (41_wel_handshake.md R133); `none`: still polling.
No number of rounds is promised to be enough (R135). -/
def pollLoop (polls : Nat) (s : State) (c : Cfg := hw) : Option Result × State :=
  match polls with
  | 0 => (none, s)
  | polls + 1 =>
    if (getWel s c).1 then (some .ok, (getWel s c).2)
    else if timedOut c (getWel s c).2.env.now.1 (getWel s c).2.t0 then
      (some .timeoutError, (getWel s c).2.setEnv (getWel s c).2.env.now.2)
    else pollLoop polls ((getWel s c).2.setEnv (getWel s c).2.env.now.2) c

/-- SET_WEL (41_wel_handshake.md R133) with at most `polls` polls; `none`: still polling. -/
def setWelWithin (polls : Nat) (s : State) (c : Cfg := hw) : Option Result × State :=
  if (welBracket (s.readT0 c) c).1 = .ok then pollLoop polls (welBracket (s.readT0 c) c).2 c
  else (some (welBracket (s.readT0 c) c).1, (welBracket (s.readT0 c) c).2)

/-- The end of a host operation: finish Ok, or raise (00_scope.md R14). -/
def conclude (p : Result × State) : State := if p.1 = .ok then p.2.finishOk else p.2.raise p.1

/-- INIT (44_init.md R200) after its acceptance. -/
def initOperation (s : State) (c : Cfg := hw) : State :=
  if (getId s c).1 = .ok then
    match findDensity c (density c (getId s c).2.idr) with
    | none => (getId s c).2.raise .unknownDensity
    | some cap =>
      if manufacturerOk c (getId s c).2.idr then ((getId s c).2.setSize cap c).finishOk
      else (getId s c).2.raise .manufacturerIdError
  else (getId s c).2.raise (getId s c).1

/-- The data bracket: select, the frame, the data phase, deselect (43_data_operations.md R170 to R172). -/
def dataBracket (bs : List Byte) (dataPhase : State → Result × State) (s : State) : Result × State :=
  andThen (andThen (andThen (callCs Env.select s) (callTx bs)) dataPhase) (callCs Env.deselect)

/-- BOUNDS, SET_WEL, the data bracket (43_data_operations.md R174, R175); `none`: the handshake is still
polling after `polls` polls, or the operation's frame is undefined (U6). -/
def dataOperation (polls : Nat) (dataPhase : State → Result × State) (s : State) (c : Cfg := hw) : Option State :=
  if boundsOk s.size s.addr s.len then
    match setWelWithin polls s c with
    | (none, _) => none
    | (some r, t) =>
      if r = .ok then
        match (t.op.opcode c).bind fun opc => frame c t.idr opc t.addr with
        | none => none
        | some bs => some (conclude (dataBracket bs dataPhase t))
      else some (t.raise r)
  else some (s.raise .addressError)

/-- WRITE's data phase: one transmit of all `LEN` bytes (43_data_operations.md R170). -/
def writePhase (s : State) : Result × State := callTx s.writeBytes (s.setEnv s.writeEnv)

/-- READ's data phase: one receive of `LEN` bytes (43_data_operations.md R171). -/
def readPhase (s : State) : Result × State := callRx s.len.toNat State.setRdata id s

/-- The loop of CLEAR (43_data_operations.md R172): `n` more one-byte transmits. -/
def clearLoop (n : Nat) (s : State) (c : Cfg := hw) : Result × State :=
  match n with
  | 0 => (.ok, s)
  | n + 1 => andThen (callTx [c.clearByte] s) fun t => clearLoop n (t.bumpIdx c) c

/-- CLEAR's data phase: `IDX <- 0`, then `LEN` zero bytes, one transmit each (43_data_operations.md R172). -/
def clearPhase (s : State) (c : Cfg := hw) : Result × State := clearLoop s.len.toNat { s with idx := 0#32 } c

/-- WRITE (43_data_operations.md R170) after its acceptance. -/
def writeOperation (polls : Nat) (s : State) (c : Cfg := hw) : Option State :=
  dataOperation polls writePhase s c

/-- READ (43_data_operations.md R171) after its acceptance. -/
def readOperation (polls : Nat) (s : State) (c : Cfg := hw) : Option State :=
  dataOperation polls readPhase s c

/-- CLEAR (43_data_operations.md R172), and ERASE after its substitution (R173), after acceptance. -/
def clearOperation (polls : Nat) (s : State) (c : Cfg := hw) : Option State :=
  dataOperation polls (fun t => clearPhase t c) s c

end Sys2Proof.Machine
end

