-- ==== Sys2Proof/Machine/Micro.lean ====
section
/-! DEFINITION. The micro-operations as calls that hand their answer to the caller in `micro` (spec/00_scope.md
R14; log 15). They write the registers their rules name and leave `SEQ` and `RESULT` to the caller. -/

namespace Sys2Proof.Machine

open Config (Cfg hw)

/-- FIND_DENSITY (40_density_and_id.md R111): pure. -/
def execFindDensity (d : BitVec 5) (s : State) (c : Cfg := hw) : Host.Outcome State Fault Refusal :=
  .next (s.answer (.capacity (findDensity c d)))

/-- ID_DECODE (40_density_and_id.md R112): pure. -/
def execIdDecode (s : State) (c : Cfg := hw) : Host.Outcome State Fault Refusal :=
  .next (s.answer (.fields (mfr c s.idr) (density c s.idr)))

/-- AW (40_density_and_id.md R114): pure; an option without a value where it is undefined (U6; log 17). -/
def execAw (d : BitVec 5) (s : State) (c : Cfg := hw) : Host.Outcome State Fault Refusal :=
  .next (s.answer (.width (addressWidth c d)))

/-- GET_ID (40_density_and_id.md R116): writes IDR. -/
def execGetId (s : State) (c : Cfg := hw) : Host.Outcome State Fault Refusal :=
  .next ((getId s c).2.answer (.status (getId s c).1))

/-- GET_WEL (41_wel_handshake.md R131): writes SR. -/
def execGetWel (s : State) (c : Cfg := hw) : Host.Outcome State Fault Refusal :=
  .next ((getWel s c).2.answer (.wel (getWel s c).1))

/-- The status reads that still answer "clear", as far as they are counted. -/
def Lag.polls : Lag → Nat
  | .reads n => n
  | .forever => 0

/-- How many polls one execution of SET_WEL makes at most: enough for every handshake that the answers fixed in
advance and the responder's lag and clock decide, and at least one (log 16). -/
def State.pollBound (s : State) : Nat :=
  match s.env.chip with
  | some c => s.env.script.length + c.clock.length + c.pending.polls + c.lag.polls + 1
  | none => s.env.script.length + 1

/-- SET_WEL (41_wel_handshake.md R133): writes T0 and, through GET_WEL, SR. Its loop has no bound but the clock (R133
(g), R135): an execution that leaves it undecided answers `polling`, which is no end, and the next execution goes on
at the next poll, with the same T0 and no second write-enable, as often as it takes (log 16). -/
def execSetWel (s : State) (c : Cfg := hw) : Host.Outcome State Fault Refusal :=
  match if s.micro = .polling then pollLoop s.pollBound s c else setWelWithin s.pollBound s c with
  | (some r, t) => .next (t.answer (.status r))
  | (none, t) => .next (t.answer .polling)

/-- FRAME (42_framing_and_bounds.md R150): reads IDR through AW; without a value where AW has none (U6; log 17). -/
def execFrame (opc : Byte) (a : Word) (s : State) (c : Cfg := hw) : Host.Outcome State Fault Refusal :=
  .next (s.answer (.frame (frame c s.idr opc a)))

/-- BOUNDS (42_framing_and_bounds.md R156): pure. -/
def execBounds (size a n : Word) (s : State) (_c : Cfg := hw) : Host.Outcome State Fault Refusal :=
  .next (s.answer (.status (if boundsOk size a n then .ok else .addressError)))

end Sys2Proof.Machine
end

