-- ==== Sys2Proof/Machine/Wire.lean ====
section
/-! DEFINITION. The six wire commands (spec/30_encoding.md R86 to R88, R96 to R98): each is the one transmit of its
frame, and the edges of its phase in spec/10_state.md R30. -/

namespace Sys2Proof.Machine

open Config (Cfg hw)

/-- The transmit of a command frame with the edges of its phase. -/
def transmitCommand (bs : List Byte) (good bad : State → State) (s : State) : Host.Outcome State Fault Refusal :=
  .next (s.onAck (s.env.transmit bs) good bad)

/-- Row D_CMD for a write frame: on to WRITE's data or to the clear loop (10_state.md R30, 30_encoding.md R97). -/
def transmitWrite (bs : List Byte) (s : State) : Host.Outcome State Fault Refusal :=
  match s.op with
  | .write => transmitCommand bs (State.goto .dWr) (State.raise .spiError) s
  | .clear => transmitCommand bs State.startClear (State.raise .spiError) s
  | .erase => transmitCommand bs State.startClear (State.raise .spiError) s
  | .read => .refused .noCommand
  | .init => .refused .noCommand
  | .unset => .refused .noCommand

/-- Row D_CMD for a read frame: on to the receive (10_state.md R30, 30_encoding.md R98). -/
def transmitRead (bs : List Byte) (s : State) : Host.Outcome State Fault Refusal :=
  match s.op with
  | .read => transmitCommand bs (State.goto .dRd) (State.raise .spiError) s
  | .write => .refused .noCommand
  | .clear => .refused .noCommand
  | .erase => .refused .noCommand
  | .init => .refused .noCommand
  | .unset => .refused .noCommand

/-- `W.RDSR` (30_encoding.md R86), row P_TX: a failed transmit makes GET_WEL answer RESET. -/
def execWRdsr (s : State) (c : Cfg := hw) : Host.Outcome State Fault Refusal :=
  transmitCommand (frameBytes .wRdsr c) (State.goto .pRx) (State.goto .pTime) s

/-- `W.WREN` (30_encoding.md R87), row W_TX: a failed transmit ends the operation with SpiError. -/
def execWWren (s : State) (c : Cfg := hw) : Host.Outcome State Fault Refusal :=
  transmitCommand (frameBytes .wWren c) (State.goto .wDes) (State.raise .spiError) s

/-- `W.RDID` (30_encoding.md R96), row I_TX: a failed transmit ends INIT with SpiError. -/
def execWRdid (s : State) (c : Cfg := hw) : Host.Outcome State Fault Refusal :=
  transmitCommand (frameBytes .wRdid c) (State.goto .iRx) (State.raise .spiError) s

/-- `W.WRITE` in format W3 (30_encoding.md R97). -/
def execWWriteW3 (a : BitVec 24) (s : State) (c : Cfg := hw) : Host.Outcome State Fault Refusal :=
  transmitWrite (frameBytes (.wWriteW3 a) c) s

/-- `W.WRITE` in format W4 (30_encoding.md R97). -/
def execWWriteW4 (a : BitVec 32) (s : State) (c : Cfg := hw) : Host.Outcome State Fault Refusal :=
  transmitWrite (frameBytes (.wWriteW4 a) c) s

/-- `W.READ` in format W3 (30_encoding.md R98). -/
def execWReadW3 (a : BitVec 24) (s : State) (c : Cfg := hw) : Host.Outcome State Fault Refusal :=
  transmitRead (frameBytes (.wReadW3 a) c) s

/-- `W.READ` in format W4 (30_encoding.md R98). -/
def execWReadW4 (a : BitVec 32) (s : State) (c : Cfg := hw) : Host.Outcome State Fault Refusal :=
  transmitRead (frameBytes (.wReadW4 a) c) s

/-- `W.WRSR` (30_encoding.md R88, U8): never issued, format and effect not given. -/
def execWWrsr (_s : State) (_c : Cfg := hw) : Host.Outcome State Fault Refusal := .refused .writeStatusNeverIssued

end Sys2Proof.Machine
end

