-- ==== Sys2Proof/Machine/Dispatch.lean ====
section
/-! DEFINITION. One arm per row of spec/opcode_table.json. -/

namespace Sys2Proof.Machine

/-- The meaning of every instruction. -/
def exec (i : Instr) (s : State) : Host.Outcome State Fault Refusal :=
  match i with
  | .wRdsr => Sys2Proof.Machine.execWRdsr s
  | .wWren => Sys2Proof.Machine.execWWren s
  | .wRdid => Sys2Proof.Machine.execWRdid s
  | .wWriteW3 a => Sys2Proof.Machine.execWWriteW3 a s
  | .wWriteW4 a => Sys2Proof.Machine.execWWriteW4 a s
  | .wReadW3 a => Sys2Proof.Machine.execWReadW3 a s
  | .wReadW4 a => Sys2Proof.Machine.execWReadW4 a s
  | .wWrsr => Sys2Proof.Machine.execWWrsr s
  | .init addr len => Sys2Proof.Machine.execInit addr len s
  | .read addr len => Sys2Proof.Machine.execRead addr len s
  | .write addr len => Sys2Proof.Machine.execWrite addr len s
  | .clear addr len => Sys2Proof.Machine.execClear addr len s
  | .erase addr len => Sys2Proof.Machine.execErase addr len s
  | .reservedOp0 addr len => Sys2Proof.Machine.execReservedOp0 addr len s
  | .reservedOp6 addr len => Sys2Proof.Machine.execReservedOp6 addr len s
  | .reservedOp7 addr len => Sys2Proof.Machine.execReservedOp7 addr len s
  | .findDensity d => Sys2Proof.Machine.execFindDensity d s
  | .idDecode => Sys2Proof.Machine.execIdDecode s
  | .aw d => Sys2Proof.Machine.execAw d s
  | .getId => Sys2Proof.Machine.execGetId s
  | .getWel => Sys2Proof.Machine.execGetWel s
  | .setWel => Sys2Proof.Machine.execSetWel s
  | .frame opc a => Sys2Proof.Machine.execFrame opc a s
  | .bounds size a n => Sys2Proof.Machine.execBounds size a n s

end Sys2Proof.Machine
end

