-- ==== Sys2Proof/Machine/Fetch.lean ====
section
/-! DEFINITION. What the next step runs: the host's request while idle (spec/10_state.md R32), the command frame of
the four command phases (R30); and how an instruction's word is placed there. -/

namespace Sys2Proof.Machine

open Config (Cfg hw)

/-- The request the idle controller finds at its port, and the state once it is taken: the one presented now, or
the next of the host's own list (logs 8, 19). The write data presented with it is latched for every operation, READ,
CLEAR, INIT and ERASE included, which ignore it: DESIGN CHOICE where 10_state.md R32 is silent (log 25). -/
def State.takeRequest (s : State) : Option (Request × State) :=
  match s.request with
  | some r => some (r, { s with request := none, wdata := r.wdata })
  | none =>
    match s.program with
    | [] => none
    | r :: rest => some (r, { s with program := rest, wdata := r.wdata })

/-- A request presented while busy is not accepted, has no effect and is not queued (10_state.md R32, 70_reset_and_hazards.md R252). -/
def State.dropRequest (s : State) : State := { s with request := none }

/-- The command frame the sequencer hands to `T.transmit` in a command phase (10_state.md R30); none in the other
phases, and none where no rule gives one (log 22). -/
def State.command (s : State) (c : Cfg := hw) : Option (List Byte) :=
  match s.seq with
  | .iTx => some [c.opcRdid]
  | .wTx => some [c.opcWren]
  | .pTx => some [c.opcRdsr]
  | .dCmd => (s.op.opcode c).bind fun opc => frame c s.idr opc s.addr
  | .idle => none
  | .iSel => none
  | .iRx => none
  | .iDes => none
  | .iDec => none
  | .dChk => none
  | .wT0 => none
  | .wSel => none
  | .wDes => none
  | .pSel => none
  | .pRx => none
  | .pDes => none
  | .pTime => none
  | .dSel => none
  | .dWr => none
  | .dRd => none
  | .dClr => none
  | .dDes => none

/-- A density code with the given address width: the first of the table (40_density_and_id.md R110, R114), for
placing a frame of that width (log 19). -/
def codeOfWidth (c : Cfg) (w : Nat) : BitVec 5 :=
  ((c.densityTable.map (·.1)).find? fun d => decide (addressWidth c d = some w)).getD 0#5

/-- An identification with the accepted manufacturer and the given density code, each in its place of `ID_LAYOUT`
(40_density_and_id.md R112), zero elsewhere. -/
def idrWith (c : Cfg) (d : BitVec 5) : IdReg :=
  IdReg.ofBytes ((List.finRange 4).map fun i =>
    if i = c.idLayout.mfrByte then c.mfrAccept
    else if i = c.idLayout.densityByte then d.setWidth 8 <<< c.idLayout.densityLow else 0#8)

/-- The state that is about to transmit a data command of the given operation, width and address. -/
def State.placeData (op : OpSel) (w : Nat) (a : Word) (s : State) (c : Cfg := hw) : State :=
  { s with resetLine := false, seq := .dCmd, op := op, idr := idrWith c (codeOfWidth c w), addr := a }

/-- The state whose next step runs the instruction (log 19): a wire command by the phase that issues it, a host
operation by its request. Write-status is issued by no phase (30_encoding.md R88; log 18) and a micro-operation
has no word: for these the state is unchanged. -/
def State.place (i : Instr) (req : BitVec 67) (s : State) (c : Cfg := hw) : State :=
  match i with
  | .wRdsr => { s with resetLine := false, seq := .pTx }
  | .wWren => { s with resetLine := false, seq := .wTx }
  | .wRdid => { s with resetLine := false, seq := .iTx }
  | .wWriteW3 a => s.placeData .write c.awSmall (a.setWidth 32) c
  | .wWriteW4 a => s.placeData .write c.awLarge a c
  | .wReadW3 a => s.placeData .read c.awSmall (a.setWidth 32) c
  | .wReadW4 a => s.placeData .read c.awLarge a c
  | .init _ _ | .read _ _ | .write _ _ | .clear _ _ | .erase _ _ =>
    { s with resetLine := false, seq := .idle, request := some ⟨req, []⟩ }
  | .reservedOp0 _ _ | .reservedOp6 _ _ | .reservedOp7 _ _ =>
    { s with resetLine := false, seq := .idle, request := some ⟨req, []⟩ }
  | .wWrsr => s
  | .findDensity _ | .idDecode | .aw _ | .getId | .getWel | .setWel | .frame _ _ | .bounds _ _ _ => s

end Sys2Proof.Machine
end

