-- ==== Sys2Proof/Machine/Phases.lean ====
section
/-! DEFINITION. The rows of the phase table of spec/10_state.md R30 that hand no command frame to the transport;
the four that do (I_TX, W_TX, P_TX, D_CMD) run a wire command (Machine/Wire.lean). One definition a row. -/

namespace Sys2Proof.Machine

open Config (Cfg hw)

/-- I_SEL -/
def rowISel (s : State) : State := s.onAck s.env.select (State.goto .iTx) (State.raise .csError)

/-- I_RX -/
def rowIRx (s : State) (c : Cfg := hw) : State :=
  match (s.env.receive c.idLen).1 with
  | some bs => ((s.setEnv (s.env.receive c.idLen).2).setIdr bs).goto .iDes
  | none => ((s.setEnv (s.env.receive c.idLen).2).anyIdr).raise .spiError

/-- I_DES -/
def rowIDes (s : State) : State := s.onAck s.env.deselect (State.goto .iDec) (State.raise .csError)

/-- I_DEC: FIND_DENSITY, then the manufacturer compare (44_init.md R200). -/
def rowIDec (s : State) (c : Cfg := hw) : State :=
  match findDensity c (density c s.idr) with
  | none => s.raise .unknownDensity
  | some cap => if manufacturerOk c s.idr then (s.setSize cap c).finishOk else s.raise .manufacturerIdError

/-- D_CHK: BOUNDS(`SIZE`, `ADDR`, `LEN`), no transport call. -/
def rowDChk (s : State) : State := if boundsOk s.size s.addr s.len then s.goto .wT0 else s.raise .addressError

/-- W_T0 -/
def rowWT0 (s : State) (c : Cfg := hw) : State := (s.readT0 c).goto .wSel

/-- W_SEL -/
def rowWSel (s : State) : State := s.onAck s.env.select (State.goto .wTx) (State.raise .csError)

/-- W_DES -/
def rowWDes (s : State) : State := s.onAck s.env.deselect (State.goto .pSel) (State.raise .csError)

/-- P_SEL: a failure is the answer RESET (60_exceptions.md R211). -/
def rowPSel (s : State) : State := s.onAck s.env.select (State.goto .pTx) (State.goto .pTime)

/-- P_RX -/
def rowPRx (s : State) (c : Cfg := hw) : State :=
  match (s.env.receive c.srLen).1 with
  | some bs => ((s.setEnv (s.env.receive c.srLen).2).setSr bs).goto .pDes
  | none => ((s.setEnv (s.env.receive c.srLen).2).anySr).goto .pTime

/-- The edge of P_DES after a deselect that succeeded: the WEL test. -/
def welEdge (c : Cfg) (s : State) : State := if welSet c s.sr then s.goto .dSel else s.goto .pTime

/-- P_DES -/
def rowPDes (s : State) (c : Cfg := hw) : State := s.onAck s.env.deselect (welEdge c) (State.goto .pTime)

/-- P_TIME -/
def rowPTime (s : State) (c : Cfg := hw) : State :=
  if timedOut c s.env.now.1 s.t0 then (s.setEnv s.env.now.2).raise .timeoutError
  else (s.setEnv s.env.now.2).goto .pSel

/-- D_SEL -/
def rowDSel (s : State) : State := s.onAck s.env.select (State.goto .dCmd) (State.raise .csError)

/-- D_WR: one transmit of all `LEN` bytes. -/
def rowDWr (s : State) : State :=
  s.onAck (s.writeEnv.transmit s.writeBytes) (State.goto .dDes) (State.raise .spiError)

/-- D_RD: one receive of `LEN` bytes; a failure spoils RDATA (in `raise`). -/
def rowDRd (s : State) : State :=
  match (s.env.receive s.len.toNat).1 with
  | some bs => ((s.setEnv (s.env.receive s.len.toNat).2).setRdata bs).goto .dDes
  | none => (s.setEnv (s.env.receive s.len.toNat).2).raise .spiError

/-- D_CLR: the per-byte loop; no call once `IDX = LEN`. -/
def rowDClr (s : State) (c : Cfg := hw) : State :=
  if s.idx = s.len then s.goto .dDes
  else s.onAck (s.env.transmit [c.clearByte]) (fun t => (t.bumpIdx c).goto .dClr) (State.raise .spiError)

/-- D_DES -/
def rowDDes (s : State) : State := s.onAck s.env.deselect State.finishOk (State.raise .csError)

/-- The table of 10_state.md R30 by phase; none for IDLE and for the four command phases. -/
def phaseRow (s : State) (c : Cfg := hw) : Option State :=
  match s.seq with
  | .idle => none
  | .iSel => some (rowISel s)
  | .iTx => none
  | .iRx => some (rowIRx s c)
  | .iDes => some (rowIDes s)
  | .iDec => some (rowIDec s c)
  | .dChk => some (rowDChk s)
  | .wT0 => some (rowWT0 s c)
  | .wSel => some (rowWSel s)
  | .wTx => none
  | .wDes => some (rowWDes s)
  | .pSel => some (rowPSel s)
  | .pTx => none
  | .pRx => some (rowPRx s c)
  | .pDes => some (rowPDes s c)
  | .pTime => some (rowPTime s c)
  | .dSel => some (rowDSel s)
  | .dCmd => none
  | .dWr => some (rowDWr s)
  | .dRd => some (rowDRd s)
  | .dClr => some (rowDClr s c)
  | .dDes => some (rowDDes s)

end Sys2Proof.Machine
end

