-- ==== Sys2Proof/Machine/Step.lean ====
section
/-! DEFINITION. One step: a reset, or the request the idle controller takes, or one row of the phase table of
spec/10_state.md R30 (R31: exactly one row a step). -/

namespace Sys2Proof.Machine

open Config (Cfg hw)

/-- What every instruction does. -/
abbrev Meaning := Instr → State → Host.Outcome State Fault Refusal

/-- Run a command frame: the wire command it encodes. -/
def runFrame (bs : List Byte) (s : State) (c : Cfg := hw) (ex : Meaning := exec) : Host.Outcome State Fault Refusal :=
  match decodeFrame bs c with
  | .instr i => ex i s
  | .rejected why => .refused (.undecodable why)

/-- A command phase. -/
def stepCommand (s : State) (c : Cfg := hw) (ex : Meaning := exec) : Host.Outcome State Fault Refusal :=
  match s.command c with
  | some bs => runFrame bs s c ex
  | none => .refused .noCommand

/-- One row while an operation runs. -/
def stepBusy (s : State) (c : Cfg := hw) (ex : Meaning := exec) : Host.Outcome State Fault Refusal :=
  match phaseRow s c with
  | some t => .next t
  | none => stepCommand s c ex

/-- The IDLE row: accept a request, or wait (10_state.md R30; log 9). -/
def stepIdle (s : State) (ex : Meaning := exec) : Host.Outcome State Fault Refusal :=
  match s.takeRequest with
  | some (r, t) => ex (decodeReq r.req) t
  | none => .next s

/-- One step of the controller with a given configuration and meaning of the instructions. -/
def stepWith (s : State) (c : Cfg := hw) (ex : Meaning := exec) : Host.Outcome State Fault Refusal :=
  if s.resetLine then .next s.applyReset
  else if s.seq = .idle then stepIdle s ex
  else stepBusy s.dropRequest c ex

/-- One step of the controller. -/
def step (s : State) : Host.Outcome State Fault Refusal := stepWith s

/-- The state whose next step fetches and runs the instruction behind a word of spec/opcode_table.json. -/
def State.withFetchWord (s : State) (nbits w : Nat) : State :=
  match decodeTableWord nbits w with
  | some i => s.place i (BitVec.ofNat 67 w)
  | none => s

end Sys2Proof.Machine
end

