-- ==== Sys2Proof/Machine/Configured.lean ====
section
/-! DEFINITION. The machine of any configuration (spec/00_scope.md R7, spec/42_framing_and_bounds.md R151): the same
meanings and the same step, with `hw` replaced. -/

namespace Sys2Proof.Machine

open Config (Cfg hw)

/-- The meaning of every instruction in a configuration. -/
def execAt (c : Cfg) (i : Instr) (s : State) : Host.Outcome State Fault Refusal :=
  match i with
  | .wRdsr => Sys2Proof.Machine.execWRdsr s c
  | .wWren => Sys2Proof.Machine.execWWren s c
  | .wRdid => Sys2Proof.Machine.execWRdid s c
  | .wWriteW3 a => Sys2Proof.Machine.execWWriteW3 a s c
  | .wWriteW4 a => Sys2Proof.Machine.execWWriteW4 a s c
  | .wReadW3 a => Sys2Proof.Machine.execWReadW3 a s c
  | .wReadW4 a => Sys2Proof.Machine.execWReadW4 a s c
  | .wWrsr => Sys2Proof.Machine.execWWrsr s c
  | .init addr len => Sys2Proof.Machine.execInit addr len s c
  | .read addr len => Sys2Proof.Machine.execRead addr len s c
  | .write addr len => Sys2Proof.Machine.execWrite addr len s c
  | .clear addr len => Sys2Proof.Machine.execClear addr len s c
  | .erase addr len => Sys2Proof.Machine.execErase addr len s c
  | .reservedOp0 addr len => Sys2Proof.Machine.execReservedOp0 addr len s c
  | .reservedOp6 addr len => Sys2Proof.Machine.execReservedOp6 addr len s c
  | .reservedOp7 addr len => Sys2Proof.Machine.execReservedOp7 addr len s c
  | .findDensity d => Sys2Proof.Machine.execFindDensity d s c
  | .idDecode => Sys2Proof.Machine.execIdDecode s c
  | .aw d => Sys2Proof.Machine.execAw d s c
  | .getId => Sys2Proof.Machine.execGetId s c
  | .getWel => Sys2Proof.Machine.execGetWel s c
  | .setWel => Sys2Proof.Machine.execSetWel s c
  | .frame opc a => Sys2Proof.Machine.execFrame opc a s c
  | .bounds size a n => Sys2Proof.Machine.execBounds size a n s c

/-- One step of the controller in a configuration. -/
def stepAt (c : Cfg) (s : State) : Host.Outcome State Fault Refusal := stepWith s c (execAt c)

/-- The configuration the source reports of the original code (42_framing_and_bounds.md R151). -/
def legacy : Cfg := { hw with frameMode := .legacy }

end Sys2Proof.Machine
end

