-- ==== Sys2Proof/Safety.lean ====
section
/-! DEFINITION. The terms claims are stated in: kinds of phases, the edges and calls of the phase table of
spec/10_state.md R30, the invariants of the machine, and runs. -/

namespace Sys2Proof.Machine

open Config (hw)

/-- The phases of INIT (44_init.md R200). -/
def Phase.isInit : Phase → Bool
  | .iSel | .iTx | .iRx | .iDes | .iDec => true
  | .idle | .dChk | .wT0 | .wSel | .wTx | .wDes | .pSel | .pTx | .pRx | .pDes | .pTime => false
  | .dSel | .dCmd | .dWr | .dRd | .dClr | .dDes => false

/-- The phases of a data operation after BOUNDS accepted (43_data_operations.md R170 to R172). -/
def Phase.isChecked : Phase → Bool
  | .wT0 | .wSel | .wTx | .wDes | .pSel | .pTx | .pRx | .pDes | .pTime => true
  | .dSel | .dCmd | .dWr | .dRd | .dClr | .dDes => true
  | .idle | .iSel | .iTx | .iRx | .iDes | .iDec | .dChk => false

/-- The phases of a data operation. -/
def Phase.isData (p : Phase) : Bool := decide (p = .dChk) || p.isChecked

/-- The phases of GET_WEL (41_wel_handshake.md R131). -/
def Phase.isPoll : Phase → Bool
  | .pSel | .pTx | .pRx | .pDes => true
  | .idle | .iSel | .iTx | .iRx | .iDes | .iDec | .dChk | .wT0 | .wSel | .wTx | .wDes | .pTime => false
  | .dSel | .dCmd | .dWr | .dRd | .dClr | .dDes => false

/-- The phases between a select that was answered ok and the matching deselect. -/
def Phase.inBracket : Phase → Bool
  | .iTx | .iRx | .iDes | .wTx | .wDes | .pTx | .pRx | .pDes | .dCmd | .dWr | .dRd | .dClr | .dDes => true
  | .idle | .iSel | .iDec | .dChk | .wT0 | .wSel | .pSel | .pTime | .dSel => false

/-- READ, WRITE, CLEAR, ERASE. -/
def OpSel.isData : OpSel → Bool
  | .read | .write | .clear | .erase => true
  | .unset | .init => false

/-- The success and failure columns of the phase table (10_state.md R30); an abort and a finish lead to IDLE. -/
def edges : Phase → List Phase
  | .idle => [.idle, .iSel, .dChk]
  | .iSel => [.iTx, .idle]
  | .iTx => [.iRx, .idle]
  | .iRx => [.iDes, .idle]
  | .iDes => [.iDec, .idle]
  | .iDec => [.idle]
  | .dChk => [.wT0, .idle]
  | .wT0 => [.wSel]
  | .wSel => [.wTx, .idle]
  | .wTx => [.wDes, .idle]
  | .wDes => [.pSel, .idle]
  | .pSel => [.pTx, .pTime]
  | .pTx => [.pRx, .pTime]
  | .pRx => [.pDes, .pTime]
  | .pDes => [.dSel, .pTime]
  | .pTime => [.idle, .pSel]
  | .dSel => [.dCmd, .idle]
  | .dCmd => [.dWr, .dRd, .dClr, .idle]
  | .dWr => [.dDes, .idle]
  | .dRd => [.dDes, .idle]
  | .dClr => [.dClr, .dDes, .idle]
  | .dDes => [.idle]

/-- The transport call of a phase with its answer, the action column of the phase table (10_state.md R30). -/
def callOf (s : State) (c : Call) : Prop :=
  match s.seq with
  | .idle | .iDec | .dChk => False
  | .iSel | .wSel | .pSel | .dSel => ∃ ok, c = .sel ok
  | .iDes | .wDes | .pDes | .dDes => ∃ ok, c = .des ok
  | .iTx => ∃ ok, c = .tx [0x9F#8] ok
  | .wTx => ∃ ok, c = .tx [0x06#8] ok
  | .pTx => ∃ ok, c = .tx [0x05#8] ok
  | .iRx => ∃ ans, c = .rx 4 ans ∧ ∀ bs, ans = some bs → bs.length = 4
  | .pRx => ∃ ans, c = .rx 1 ans ∧ ∀ bs, ans = some bs → bs.length = 1
  | .wT0 | .pTime => ∃ t, c = .now t
  | .dCmd => ∃ opc bs ok, s.op.opcode hw = some opc ∧ frame hw s.idr opc s.addr = some bs ∧ c = .tx bs ok
  | .dWr => ∃ bs ok, c = .tx bs ok ∧ bs.length = s.len.toNat ∧ (s.wdata.length = s.len.toNat → bs = s.wdata)
  | .dRd => ∃ ans, c = .rx s.len.toNat ans ∧ ∀ bs, ans = some bs → bs.length = s.len.toNat
  | .dClr => s.idx ≠ s.len ∧ ∃ ok, c = .tx [0x00#8] ok

/-- The chip-select line as the calls answered so far leave it: the newest select or deselect decides; unknown
after a failed one and before the first (10_state.md R39, 70_reset_and_hazards.md R242, R247). -/
def lineAfter : List Call → Option Bool
  | [] => none
  | .sel true :: _ => some true
  | .sel false :: _ => none
  | .des true :: _ => some false
  | .des false :: _ => none
  | .tx _ _ :: rest => lineAfter rest
  | .rx _ _ :: rest => lineAfter rest
  | .now _ :: rest => lineAfter rest

/-- The chip-select line of a state. -/
def State.line (s : State) : Option Bool := lineAfter s.env.history

/-- The capacities a resolved SIZE can have, or 0 before the first INIT (10_state.md R26). -/
abbrev legalSize (w : Word) : Prop := w = 0#32 ∨ w ∈ hw.densityTable.map (·.2)

/-- The attached responder's array is canonical. -/
abbrev State.memWf (s : State) : Prop := ∀ c, s.env.chip = some c → c.wf

/-- The registers fit the phase: what every state of a run satisfies. -/
structure State.Inv (s : State) : Prop where
  /-- the responder's array keeps its canonical form -/
  mem : s.memWf
  /-- 10_state.md R26 -/
  size : legalSize s.size
  /-- INIT's phases run INIT -/
  init : s.seq.isInit = true → s.op = .init
  /-- a data operation runs only on a usable state (43_data_operations.md R174) -/
  data : s.seq.isData = true → s.op.isData = true ∧ s.usable = true
  /-- past D_CHK the range lies in the array (42_framing_and_bounds.md R156) -/
  range : s.seq.isChecked = true → s.addr.toNat + s.len.toNat ≤ s.size.toNat
  /-- ERASE runs on the whole array (43_data_operations.md R173) -/
  erase : s.seq.isData = true → s.op = .erase → s.addr = 0#32 ∧ s.len = s.size
  /-- WRITE's data phase -/
  write : s.seq = .dWr → s.op = .write
  /-- READ's data phase -/
  read : s.seq = .dRd → s.op = .read
  /-- the clear loop has not passed its end (43_data_operations.md R172, 10_state.md R36) -/
  clear : s.seq = .dClr → (s.op = .clear ∨ s.op = .erase) ∧ s.idx.toNat ≤ s.len.toNat
  /-- inside a bracket the last select was answered ok and no deselect followed (60_exceptions.md R214) -/
  line : s.seq.inBracket = true → s.line = some true
  /-- when I_DEC decides, GET_ID's deselect was answered ok (40_density_and_id.md R116, 44_init.md R202) -/
  released : s.seq = .iDec → s.line = some false

/-- `k` steps lead from `s` to `t`. -/
def Steps (k : Nat) (s t : State) : Prop := Host.Core.run core k s = .next t

/-- The host neither resets the controller nor presents a request. -/
def State.quiet (s : State) : Prop := s.resetLine = false ∧ s.request = none

/-- Some number of steps leads from `s` to `t`. -/
def Reaches (s t : State) : Prop := ∃ k, Steps k s t

/-- The transport calls `t` has made beyond those of `s`, oldest first, are `cs`. -/
def Called (s t : State) (cs : List Call) : Prop := t.env.history = cs.reverse ++ s.env.history

/-- No byte of the attached responder's array differs, wherever `t` still has a responder. -/
def SameMemory (s t : State) : Prop := ∀ a b, t.memRead a = some b → s.memRead a = some b

/-- Every register of the controller, both streams and the host's inputs are as before; only what stands behind
the transport port and the model's own `micro` may differ. -/
def SameRegisters (s t : State) : Prop := t = { s with env := t.env, micro := t.micro }

/-! ### Terms of single claims -/

/-- What a data command does once its frame `bs` is transmitted (10_state.md R30, row D_CMD). -/
def dataCommandEdge (bs : List Byte) (s : State) : State :=
  if (s.env.transmit bs).1 then
    match s.op with
    | .write => { s with env := (s.env.transmit bs).2, seq := .dWr }
    | .read => { s with env := (s.env.transmit bs).2, seq := .dRd }
    | .clear | .erase => { s with env := (s.env.transmit bs).2, idx := 0#32, seq := .dClr }
    | .init | .unset => s
  else { s with env := (s.env.transmit bs).2 }.raise .spiError

/-- The write-enable bracket answered ok (41_wel_handshake.md R133). -/
def enableBracket : List Call := [Call.sel true, .tx [0x06#8] true, .des true]

/-- The answers of a handshake whose first poll reads the status byte `b` (41_wel_handshake.md R133). -/
def handshakeReplies (now0 : Word) (b : Byte) : List Reply :=
  [.time now0, .ok, .ok, .ok, .ok, .ok, .bytes [b], .ok]

/-- The eight calls of that handshake, oldest first. -/
def handshakeCalls (now0 : Word) (b : Byte) : List Call :=
  [Call.now now0] ++ enableBracket ++ [Call.sel true, .tx [0x05#8] true, .rx 1 (some [b]), .des true]

/-- A poll that answers RESET, by the call that failed, or with a byte whose WEL bit is clear (41_wel_handshake.md
R131, R132). -/
inductive ResetPoll where
  | select
  | transmit
  | receive
  | deselect (b : Byte)
  | clear (b : Byte)
deriving DecidableEq, Repr

/-- WEL is clear in the byte of a poll whose four calls succeeded. -/
def ResetPoll.wf : ResetPoll → Bool
  | .clear b => !b.getLsbD 1
  | .select | .transmit | .receive | .deselect _ => true

/-- The answers that make a poll stop there. -/
def ResetPoll.replies : ResetPoll → List Reply
  | .select => [.fail]
  | .transmit => [.ok, .fail]
  | .receive => [.ok, .ok, .fail]
  | .deselect b => [.ok, .ok, .bytes [b], .fail]
  | .clear b => [.ok, .ok, .bytes [b], .ok]

/-- The calls such a poll makes, oldest first. -/
def ResetPoll.calls : ResetPoll → List Call
  | .select => [.sel false]
  | .transmit => [.sel true, .tx [0x05#8] false]
  | .receive => [.sel true, .tx [0x05#8] true, .rx 1 none]
  | .deselect b => [.sel true, .tx [0x05#8] true, .rx 1 (some [b]), .des false]
  | .clear b => [.sel true, .tx [0x05#8] true, .rx 1 (some [b]), .des true]

/-- A round of SET_WEL's loop that does not end in Ok: a poll that answers RESET, then the clock read
(41_wel_handshake.md R133). -/
structure Round where
  poll : ResetPoll
  time : Word
deriving DecidableEq, Repr

/-- The answers of a round. -/
def Round.replies (r : Round) : List Reply := r.poll.replies ++ [.time r.time]

/-- The calls of a round, oldest first. -/
def Round.calls (r : Round) : List Call := r.poll.calls ++ [.now r.time]

/-- The round goes on: no more than 1000 ms since `now0`, modulo 2^32 (41_wel_handshake.md R134). -/
def Round.within (now0 : Word) (r : Round) : Prop := r.poll.wf = true ∧ (r.time - now0).toNat ≤ 1000

/-- The round ends the handshake with TimeoutError (41_wel_handshake.md R134). -/
def Round.beyond (now0 : Word) (r : Round) : Prop := r.poll.wf = true ∧ 1000 < (r.time - now0).toNat

/-- The state after `n` rounds of SET_WEL's loop (a poll, then a clock read), whatever they answer
(41_wel_handshake.md R133). -/
def State.afterRounds : Nat → State → State
  | 0, s => s
  | n + 1, s => State.afterRounds n ((getWel s).2.setEnv (getWel s).2.env.now.2)

/-- What the clock answers in round `n` (the first is 0). -/
def State.clockRead (n : Nat) (s : State) : Word := (getWel (s.afterRounds n)).2.env.now.1

/-- The clock's promise, an assumption on the oracle (41_wel_handshake.md R135, 70_reset_and_hazards.md R250, the spec's
decision D30): in the infinite sequence of clock reads of the SET_WEL whose next poll begins here, some read lies more
than 1000 past T0, modulo 2^32. A premise, never built into the step. -/
def State.clockPromise (s : State) : Prop := ∃ n, 1000 < (s.clockRead n - s.t0).toNat

/-- The clock keeps its promise in every handshake of the run. -/
def State.keepsClockPromise (s : State) : Prop := ∀ u, Reaches s u → u.seq = .pSel → u.clockPromise

/-- The state after a data operation that returned Ok on scripted answers (frame of R170 to R172). -/
def completed (s : State) (op : OpSel) (a n now0 : Word) (b : Byte) (rest : List Reply) (cs : List Call) : State :=
  { s with
    op := op, addr := a, len := n, t0 := now0, sr := b, result := .ok, seq := .idle,
    env := { script := rest, chip := none, draws := s.env.draws, history := cs.reverse ++ s.env.history } }

/-- The responder fits the identified chip, answers the first status read, and nothing is scripted. -/
def respondsWell (s : State) (c : Chip) : Prop :=
  s.quiet ∧ s.seq = .idle ∧ s.usable = true ∧ s.env.script = [] ∧ s.env.chip = some c ∧ c.wf ∧
    c.lag = .reads 0 ∧ c.cap = s.size.toNat ∧ addressWidth hw (density hw s.idr) = some c.width

end Sys2Proof.Machine
end

