-- ==== Sys2Proof/Certificates/Slice0/Obligations.lean ====
section
/-! DEFINITION. The statements about the controller, in the order of the spec's files. "Log n" is notes/assumptions/<n>.md. -/

open Sys2Proof
open Sys2Proof.Machine
open Sys2Proof.Config (hw)

/-! ### Encoding (30_encoding.md) -/

/-- 30_encoding.md R81, R85, R90, R91: no bit of an encoding is dropped, in this hardware's configuration and in every
other that the model's formats can carry out (00_scope.md R7; log 23). -/
def Obligations.DecodeOfEncode : Prop :=
  (∀ (i : Instr) (code : Code), i.wf = true → encode i = some code → decode code = .instr i) ∧
  ∀ (c : Config.Cfg) (i : Instr) (code : Code), admissible c = true → i.wf c = true → encode i c = some code →
    decode code c = .instr i

/-- 30_encoding.md R81, R85, R89, R90: every word has one meaning, and a frame outside the map is rejected. -/
def Obligations.EncodeOfDecode : Prop :=
  (∀ bs i, decodeFrame bs = .instr i → encode i = some (.wire bs)) ∧
  (∀ req, encode (decodeReq req) = some (.host req)) ∧
  (∀ b rest, knownOpcode b = false → decodeFrame (b :: rest) = .rejected (.unknownOpcode b))

/-- The words of 30_encoding.md R86, R87, R96 to R98 and of 95_test_vectors.md section 3, written out. -/
def Obligations.WrittenOutWordsDecode : Prop :=
  decodeTableWord 8 0x05 = some .wRdsr ∧ decodeTableWord 8 0x06 = some .wWren ∧
  decodeTableWord 8 0x9F = some .wRdid ∧
  decodeTableWord 32 0x02001234 = some (.wWriteW3 0x001234#24) ∧
  decodeTableWord 40 0x0300012345 = some (.wReadW4 0x00012345#32) ∧
  decodeTableWord 72 0x10000000000000000 = some (.init 0#32 0#32) ∧
  decodeTableWord 72 0x30000000000000001 = some (.write 0#32 1#32) ∧
  decodeTableWord 72 0x20001234500000002 = some (.read 0x00012345#32 2#32) ∧
  decodeTableWord 72 0x4000007FE00000002 = some (.clear 0x7FE#32 2#32)

/-- 30_encoding.md R94, R91, R95: a line of a host program is a request the host may present, and it is the line's operation. -/
def Obligations.HostLinesAreRequests : Prop :=
  ∀ l : Line, l.wf = true → l.request.wf = true ∧
    match l with
    | .init => decodeReq l.request.req = .init 0#32 0#32
    | .read a n => decodeReq l.request.req = .read a n
    | .write a bs => ∃ n : Word, n.toNat = bs.length ∧ decodeReq l.request.req = .write a n ∧ l.request.wdata = bs
    | .clear a n => decodeReq l.request.req = .clear a n
    | .erase => decodeReq l.request.req = .erase 0#32 0#32

/-- 30_encoding.md R92 (the spec's decision D19): a reserved selector is refused, as an instruction and as a request taken while idle. -/
def Obligations.ReservedSelectorsRefused : Prop :=
  (∀ a n s, exec (.reservedOp0 a n) s = .refused (.reservedSelector 0#3)) ∧
  (∀ a n s, exec (.reservedOp6 a n) s = .refused (.reservedSelector 6#3)) ∧
  (∀ a n s, exec (.reservedOp7 a n) s = .refused (.reservedSelector 7#3)) ∧
  (∀ s r, s.resetLine = false → s.seq = .idle → s.request = some r →
    (r.selector = 0#3 ∨ r.selector = 6#3 ∨ r.selector = 7#3) → step s = .refused (.reservedSelector r.selector))

/-- 30_encoding.md R88, R89: write-status is not issued; what a command phase transmits begins with one of the five issued opcodes. -/
def Obligations.OnlyFiveOpcodesIssued : Prop :=
  (∀ s, exec .wWrsr s = .refused .writeStatusNeverIssued) ∧
  (∀ s t, s.resetLine = false → (s.seq = .iTx ∨ s.seq = .wTx ∨ s.seq = .pTx ∨ s.seq = .dCmd) → step s = .next t →
    ∃ opc rest ok, t.env.history = .tx (opc :: rest) ok :: s.env.history ∧
      opc ∈ [0x05#8, 0x06#8, 0x9F#8, 0x02#8, 0x03#8])

/-- 30_encoding.md R86, R87, R96, 10_state.md R30: the one-byte commands transmit their byte and take the edge of
their phase; nothing but SEQ, RESULT on an abort, and what an abort does to a READ's RDATA changes. -/
def Obligations.OneByteCommands : Prop :=
  ∀ s : State,
    exec .wRdsr s = .next (if (s.env.transmit [0x05#8]).1 then { s with env := (s.env.transmit [0x05#8]).2, seq := .pRx }
      else { s with env := (s.env.transmit [0x05#8]).2, seq := .pTime }) ∧
    exec .wWren s = .next (if (s.env.transmit [0x06#8]).1 then { s with env := (s.env.transmit [0x06#8]).2, seq := .wDes }
      else { s with env := (s.env.transmit [0x06#8]).2 }.raise .spiError) ∧
    exec .wRdid s = .next (if (s.env.transmit [0x9F#8]).1 then { s with env := (s.env.transmit [0x9F#8]).2, seq := .iRx }
      else { s with env := (s.env.transmit [0x9F#8]).2 }.raise .spiError)

/-- 30_encoding.md R97, R98, R81, 10_state.md R30: the write frames of WRITE, CLEAR and ERASE and the read frames of READ. -/
def Obligations.AddressedCommands : Prop :=
  ∀ s : State,
    ((s.op = .write ∨ s.op = .clear ∨ s.op = .erase) →
      (∀ a : BitVec 24, exec (.wWriteW3 a) s =
        .next (dataCommandEdge [0x02#8, a.extractLsb' 16 8, a.extractLsb' 8 8, a.extractLsb' 0 8] s)) ∧
      (∀ a : BitVec 32, exec (.wWriteW4 a) s = .next (dataCommandEdge
        [0x02#8, a.extractLsb' 24 8, a.extractLsb' 16 8, a.extractLsb' 8 8, a.extractLsb' 0 8] s))) ∧
    (s.op = .read →
      (∀ a : BitVec 24, exec (.wReadW3 a) s =
        .next (dataCommandEdge [0x03#8, a.extractLsb' 16 8, a.extractLsb' 8 8, a.extractLsb' 0 8] s)) ∧
      (∀ a : BitVec 32, exec (.wReadW4 a) s = .next (dataCommandEdge
        [0x03#8, a.extractLsb' 24 8, a.extractLsb' 16 8, a.extractLsb' 8 8, a.extractLsb' 0 8] s)))

/-- The memory frame of the wire commands: every byte of the attached responder's array reads as before, but for
those the responder stores when the transmit falls into a write bracket left open (70_reset_and_hazards.md R247;
the responder is a fixture, log 4). -/
def Obligations.WireCommandMemoryFrame : Prop :=
  ∀ i s t, i ∈ [Instr.wRdsr, .wWren, .wRdid] ∨ (∃ a, i = .wWriteW3 a ∨ i = .wReadW3 a) ∨
      (∃ a, i = .wWriteW4 a ∨ i = .wReadW4 a) →
    exec i s = .next t → ∀ a b, t.memRead a = some b →
      s.memRead a = some b ∨ ∃ c, s.env.chip = some c ∧ c.cs = true ∧ c.cmd = some hw.opcWrite ∧ c.latch = true ∧
        c.ptr ≤ a ∧ (frameBytes i)[a - c.ptr]? = some b

/-! ### Density, identification, width (40_density_and_id.md) -/

/-- 40_density_and_id.md R111: the first match of the scan; no state but the model's answer changes (log 15). -/
def Obligations.FindDensityResult : Prop :=
  (∀ d s, exec (.findDensity d) s = .next { s with micro := .capacity (findDensity hw d) }) ∧
  (∀ c d, findDensity c d = none ↔ ∀ e ∈ c.densityTable, e.1 ≠ d) ∧
  (∀ c d cap, findDensity c d = some cap ↔
    ∃ before rest, c.densityTable = before ++ (d, cap) :: rest ∧ ∀ e ∈ before, e.1 ≠ d) ∧
  (∀ c, (c.densityTable.map (·.1)).Nodup → ∀ d cap, findDensity c d = some cap ↔ (d, cap) ∈ c.densityTable)

/-- 40_density_and_id.md R110, R111: the nine codes of this hardware (the spec's decision D6) and the 23 unknown ones. -/
def Obligations.DensityTableOfThisHardware : Prop :=
  admissible hw = true ∧
  hw.densityTable.map (fun e => (e.1.toNat, e.2.toNat)) =
    [(1, 2048), (3, 8192), (4, 16384), (5, 32768), (6, 65536), (7, 131072), (8, 262144), (9, 524288), (10, 1048576)] ∧
  ∀ d : BitVec 5, findDensity hw d = none ↔ d = 0#5 ∨ d = 2#5 ∨ 11 ≤ d.toNat

/-- 40_density_and_id.md R112, 10_state.md R22, R23 (positions: the spec's decision D5). -/
def Obligations.IdDecodeFields : Prop :=
  ∀ s : State,
    exec .idDecode s = .next { s with micro := .fields s.idr.b0 (s.idr.b2.extractLsb' 0 5) } ∧
    s.idr.view.extractLsb' 0 8 = s.idr.b0 ∧ s.idr.view.extractLsb' 8 8 = s.idr.b1 ∧
    s.idr.view.extractLsb' 16 8 = s.idr.b2 ∧ s.idr.view.extractLsb' 24 8 = s.idr.b3 ∧
    mfr hw s.idr = s.idr.view.extractLsb' 0 8 ∧ density hw s.idr = s.idr.view.extractLsb' 16 5

/-- 40_density_and_id.md R112, 10_state.md R27: `b1`, `b2[7:5]` and `b3` never influence a step. -/
def Obligations.IgnoredIdBitsNeverMatter : Prop :=
  ∀ (s : State) (r : IdReg), r.b0 = s.idr.b0 → r.b2.extractLsb' 0 5 = s.idr.b2.extractLsb' 0 5 →
    (∀ t, step s = .next t → ∃ q, step { s with idr := r } = .next { t with idr := q } ∧
      (q = t.idr ∨ t.idr = s.idr ∧ q = r)) ∧
    (∀ why, step s = .refused why → step { s with idr := r } = .refused why)

/-- 40_density_and_id.md R114: 3 at or below 512 Kb, 4 above, no value for a code outside the table (U6; log 17). -/
def Obligations.AddressWidthSelector : Prop :=
  (∀ d s, exec (.aw d) s = .next { s with micro := .width (addressWidth hw d) }) ∧
  (∀ d cap, findDensity hw d = some cap → cap.toNat ≤ 65536 → addressWidth hw d = some 3) ∧
  (∀ d cap, findDensity hw d = some cap → 65536 < cap.toNat → addressWidth hw d = some 4) ∧
  (∀ d, findDensity hw d = none → addressWidth hw d = none)

/-- 40_density_and_id.md R116, R117: the five ways GET_ID ends, with its calls, its answer and IDR; nothing else
is written, and every byte of the attached array stays. -/
def Obligations.GetIdExchange : Prop :=
  ∀ s : State, ∃ t, exec .getId s = .next t ∧
    t = { s with idr := t.idr, env := t.env, micro := t.micro } ∧ SameMemory s t ∧
    ((t.micro = .status .csError ∧ t.idr = s.idr ∧ Called s t [.sel false]) ∨
     (t.micro = .status .spiError ∧ t.idr = s.idr ∧ Called s t [Call.sel true, .tx [0x9F#8] false]) ∨
     (t.micro = .status .spiError ∧ Called s t [Call.sel true, .tx [0x9F#8] true, .rx 4 none]) ∨
     ∃ b0 b1 b2 b3, t.idr = ⟨b0, b1, b2, b3⟩ ∧
       ((t.micro = .status .csError ∧
          Called s t [Call.sel true, .tx [0x9F#8] true, .rx 4 (some [b0, b1, b2, b3]), .des false]) ∨
        (t.micro = .status .ok ∧
          Called s t [Call.sel true, .tx [0x9F#8] true, .rx 4 (some [b0, b1, b2, b3]), .des true])))

/-! ### The handshake (41_wel_handshake.md) -/

/-- 41_wel_handshake.md R131, R132, 10_state.md R37: GET_WEL's calls, its answer and SR; SET only after four calls that succeeded and a byte with WEL set. -/
def Obligations.GetWelExchange : Prop :=
  ∀ s : State, ∃ t, exec .getWel s = .next t ∧
    t = { s with sr := t.sr, env := t.env, micro := t.micro } ∧ SameMemory s t ∧
    ((t.micro = .wel false ∧ t.sr = s.sr ∧ Called s t [.sel false]) ∨
     (t.micro = .wel false ∧ t.sr = s.sr ∧ Called s t [Call.sel true, .tx [0x05#8] false]) ∨
     (t.micro = .wel false ∧ Called s t [Call.sel true, .tx [0x05#8] true, .rx 1 none]) ∨
     ∃ b, t.sr = b ∧
       ((t.micro = .wel false ∧ Called s t [Call.sel true, .tx [0x05#8] true, .rx 1 (some [b]), .des false]) ∨
        (t.micro = .wel (b.getLsbD 1) ∧ Called s t [Call.sel true, .tx [0x05#8] true, .rx 1 (some [b]), .des true])))

/-- 41_wel_handshake.md R133, R134, R135: how SET_WEL ends, with its calls: T0 is read first, write-enable is sent
once, then come rounds of a poll that answers RESET and a clock read within 1000 of T0. Ok comes from a poll that read
WEL set, TimeoutError from a further round whose clock read, after its poll, lies more than 1000 past T0. Or it has not
ended (`polling`, log 16), and its next execution goes on with the loop, with the same T0 and no second write-enable.
Nothing but T0 and SR is written. -/
def Obligations.SetWelExchange : Prop :=
  ∀ s : State, ∃ t calls, exec .setWel s = .next t ∧
    t = { s with t0 := t.t0, sr := t.sr, env := t.env, micro := t.micro } ∧ SameMemory s t ∧ Called s t calls ∧
    ((s.micro ≠ .polling ∧ t.micro = .status .csError ∧ t.sr = s.sr ∧
        (calls = [Call.now t.t0, .sel false] ∨ calls = [Call.now t.t0, .sel true, .tx [0x06#8] true, .des false])) ∨
     (s.micro ≠ .polling ∧ t.micro = .status .spiError ∧ t.sr = s.sr ∧
        calls = [Call.now t.t0, .sel true, .tx [0x06#8] false]) ∨
     ∃ start loop, calls = start ++ loop ∧
       (s.micro ≠ .polling → start = [Call.now t.t0] ++ enableBracket) ∧
       (s.micro = .polling → start = [] ∧ t.t0 = s.t0) ∧
       ∃ rounds : List Round, (∀ r ∈ rounds, r.within t.t0) ∧
         ((t.micro = .status .ok ∧ t.sr.getLsbD 1 = true ∧ loop = rounds.flatMap Round.calls ++
            [Call.sel true, .tx [0x05#8] true, .rx 1 (some [t.sr]), .des true]) ∨
          (t.micro = .status .timeoutError ∧ ∃ last : Round, last.beyond t.t0 ∧
            loop = (rounds ++ [last]).flatMap Round.calls) ∨
          (t.micro = .polling ∧ rounds.length = s.pollBound ∧ loop = rounds.flatMap Round.calls)))

/-- 41_wel_handshake.md R137, R136, R133: SET_WEL that reads WEL set ends with Ok: on scripted answers (logs 1, 6) whose
first poll reads it, after eight calls; on the reference responder (a fixture, log 4), whose lag lets `n` polls read it
clear, at poll `n + 1`, as long as the clock reads between stay within 1000 of T0. -/
def Obligations.SetWelFirstPollSet : Prop :=
  (∀ (s : State) now0 b rest, s.micro ≠ .polling → b.getLsbD 1 = true →
    s.env.script = .time now0 :: .ok :: .ok :: .ok :: .ok :: .ok :: .bytes [b] :: .ok :: rest →
    ∃ t, exec .setWel s = .next t ∧ t.micro = .status .ok ∧ t.t0 = now0 ∧ t.sr = b ∧ t.seq = s.seq ∧
      t.env.script = rest ∧
      Called s t ([Call.now now0] ++ enableBracket ++ [Call.sel true, .tx [0x05#8] true, .rx 1 (some [b]), .des true])) ∧
  ∀ (s : State) (c : Chip) (n : Nat) (now0 : Word) (times rest : List Word), s.micro ≠ .polling →
    s.env.script = [] → s.env.chip = some c → c.lag = .reads n → c.clock = now0 :: times ++ rest →
    times.length = n → (∀ x ∈ times, (x - now0).toNat ≤ 1000) →
    ∃ t, exec .setWel s = .next t ∧ t.micro = .status .ok ∧ t.t0 = now0 ∧ t.sr = 0x02#8 ∧ t.seq = s.seq ∧
      Called s t ([Call.now now0] ++ enableBracket ++
        (times.flatMap fun x => [Call.sel true, .tx [0x05#8] true, .rx 1 (some [0x00#8]), .des true, .now x]) ++
        [Call.sel true, .tx [0x05#8] true, .rx 1 (some [0x02#8]), .des true])

/-- 41_wel_handshake.md R133 (c), (d), R134, R131, 60_exceptions.md R211: after any number of rounds whose polls answer
RESET, each in any of the five ways (a failure of each call, or any byte with WEL clear), and whose clock reads stay
within 1000 ms of T0, a further such round with a clock read beyond is TimeoutError, whatever the counter did at 2^32;
so from the start, and where an execution that had not ended goes on (log 16).
The answers are fixed by the script (logs 1, 6). -/
def Obligations.SetWelTimesOut : Prop :=
  ∀ (s : State) (now0 : Word) (rounds : List Round) (last : Round) rest,
    (∀ r ∈ rounds, r.within now0) → last.beyond now0 →
    (s.micro ≠ .polling →
      s.env.script = .time now0 :: .ok :: .ok :: .ok :: (rounds ++ [last]).flatMap Round.replies ++ rest →
      ∃ t, exec .setWel s = .next t ∧ t.micro = .status .timeoutError ∧ t.t0 = now0 ∧ t.env.script = rest ∧
        Called s t ([Call.now now0] ++ enableBracket ++ (rounds ++ [last]).flatMap Round.calls)) ∧
    (s.micro = .polling → s.t0 = now0 → s.env.script = (rounds ++ [last]).flatMap Round.replies ++ rest →
      ∃ t, exec .setWel s = .next t ∧ t.micro = .status .timeoutError ∧ t.t0 = now0 ∧ t.env.script = rest ∧
        Called s t ((rounds ++ [last]).flatMap Round.calls))

/-- 41_wel_handshake.md R134, 10_state.md R30 (row P_TIME): the elapsed time is taken modulo 2^32 and compared strictly. -/
def Obligations.ClockCheck : Prop :=
  ∀ s : State, s.resetLine = false → s.seq = .pTime →
    step s = .next (if 1000 < (s.env.now.1.toNat + 2 ^ 32 - s.t0.toNat) % 2 ^ 32
      then { s with request := none, env := s.env.now.2 }.raise .timeoutError
      else { s with request := none, env := s.env.now.2, seq := .pSel })

/-- 41_wel_handshake.md R135, 70_reset_and_hazards.md R250, 10_state.md R41 (the spec's decision D30): the handshake
ends only if the clock moves. With a clock that stands still and a chip that never answers, the sequencer's handshake
has not ended after any number of rounds (the answers are fixed by the script, logs 1, 6), and as many polls as answer
RESET before clock reads within 1000 of T0, so many leave the loop undecided. With the clock's promise as a premise the loop
is decided, the sequencer leaves the handshake, and every operation ends. -/
def Obligations.HandshakeCanHang : Prop :=
  (∀ (k : Nat) (s : State) rest, s.quiet → s.seq = .pSel →
    s.env.script = (List.replicate k [Reply.fail, .time s.t0]).flatten ++ rest →
    ∃ t, Steps (2 * k) s t ∧ t = { s with env := t.env } ∧ t.env.script = rest ∧
      Called s t (List.replicate k [Call.sel false, .now s.t0]).flatten) ∧
  (∀ (s : State) polls,
    (∀ n, n < polls → (getWel (s.afterRounds n)).1 = false ∧ (s.clockRead n - s.t0).toNat ≤ 1000) →
    (pollLoop polls s).1 = none) ∧
  (∀ s : State, s.clockPromise → ∃ polls r, (pollLoop polls s).1 = some r) ∧
  (∀ s : State, s.quiet → s.seq = .pSel → s.clockPromise →
    ∃ t, Reaches s t ∧ (t.seq = .dSel ∨ t.seq = .idle ∧ t.result = .timeoutError)) ∧
  ∀ s : State, s.Inv → s.quiet → s.keepsClockPromise → ∃ t, Reaches s t ∧ t.seq = .idle

/-- 60_exceptions.md R211, 41_wel_handshake.md R131: a call of GET_WEL that fails raises nothing: the sequencer goes on to the clock check. -/
def Obligations.PollFailuresAreSwallowed : Prop :=
  ∀ s t : State, s.resetLine = false → s.seq.isPoll = true → step s = .next t →
    t.seq ≠ .idle ∧ t.result = s.result ∧
    ∀ c, t.env.history = c :: s.env.history →
      (c = .sel false ∨ c = .des false ∨ (∃ bs, c = .tx bs false) ∨ ∃ n, c = .rx n none) →
      t.seq = .pTime ∧ (s.seq ≠ .pRx → t.sr = s.sr)

/-! ### Framing and bounds (42_framing_and_bounds.md) -/

/-- 42_framing_and_bounds.md R150: the frame in both modes and both widths, for every configuration; where the
sequencer builds one, AW has a value, and the byte that three address bytes drop is zero. That the answer of FRAME
stands in the model's own field is log 15, that there is none without a width is log 17. -/
def Obligations.FrameBytes : Prop :=
  (∀ (opc : Byte) (a : Word) (s : State),
    exec (.frame opc a) s = .next { s with micro := .frame (frame hw s.idr opc a) }) ∧
  (∀ (c : Config.Cfg) (r : IdReg) (opc : Byte) (a : Word),
    (addressWidth c (density c r) = none → frame c r opc a = none) ∧
    (addressWidth c (density c r) = some 3 → frame c r opc a = some (match c.frameMode with
      | .corrected => [opc, a.extractLsb' 16 8, a.extractLsb' 8 8, a.extractLsb' 0 8]
      | .legacy => [opc, 0x00#8, 0x00#8, a.extractLsb' 0 8])) ∧
    (addressWidth c (density c r) = some 4 → frame c r opc a = some (match c.frameMode with
      | .corrected => [opc, a.extractLsb' 24 8, a.extractLsb' 16 8, a.extractLsb' 8 8, a.extractLsb' 0 8]
      | .legacy => [opc, 0x00#8, 0x00#8, 0x00#8, a.extractLsb' 0 8])) ∧
    (a.toNat < 256 → frame { c with frameMode := .legacy } r opc a = frame { c with frameMode := .corrected } r opc a)) ∧
  ∀ s : State, s.Inv → s.seq = .dCmd →
    ∃ w, addressWidth hw (density hw s.idr) = some w ∧ (w = 3 → s.addr.extractLsb' 24 8 = 0#8)

/-- 30_encoding.md R83, R84: after BOUNDS on a usable state the address bytes lose no bit of ADDR. -/
def Obligations.FrameCarriesWholeAddress : Prop :=
  ∀ (s : State) (opc : Byte), s.usable = true → s.addr.toNat + s.len.toNat ≤ s.size.toNat →
    ∃ bs, frame hw s.idr opc s.addr = some (opc :: bs) ∧ bigEndianValue bs = s.addr.toNat ∧
      addressWidth hw (density hw s.idr) = some bs.length ∧
      (bs.length = 3 ∧ s.addr.toNat < 2 ^ 17 ∨ bs.length = 4 ∧ s.addr.toNat < 2 ^ 21)

/-- 42_framing_and_bounds.md R156: the sum without wraparound, the form that needs no 33-bit adder, and the phase
D_CHK, which decides by SIZE, ADDR and LEN without a call. That the answer of BOUNDS stands in the model's own field is
log 15. -/
def Obligations.BoundsDecision : Prop :=
  ∀ (size a n : Word) (s : State),
    (a.toNat + n.toNat ≤ size.toNat → exec (.bounds size a n) s = .next { s with micro := .status .ok }) ∧
    (size.toNat < a.toNat + n.toNat → exec (.bounds size a n) s = .next { s with micro := .status .addressError }) ∧
    (boundsOk size a n = true ↔ a ≤ size ∧ n ≤ size - a) ∧
    (s.resetLine = false → s.seq = .dChk → ∃ t, step s = .next t ∧ t.env.history = s.env.history ∧
      (s.addr.toNat + s.len.toNat ≤ s.size.toNat → t.seq = .wT0) ∧
      (s.size.toNat < s.addr.toNat + s.len.toNat → t.seq = .idle ∧ t.result = .addressError))

/-- 42_framing_and_bounds.md R157, 90_conflicts.md C1: where the original idiom and BOUNDS differ. -/
def Obligations.WraparoundIdiomBand : Prop :=
  ∀ size a n : Word,
    (a.toNat + n.toNat < 2 ^ 32 → idiomAccepts size a n = boundsOk size a n) ∧
    (2 ^ 32 ≤ a.toNat + n.toNat → boundsOk size a n = false) ∧
    (2 ^ 32 ≤ a.toNat + n.toNat → (idiomAccepts size a n = true ↔ a.toNat + n.toNat ≤ 2 ^ 32 + size.toNat))

/-- 42_framing_and_bounds.md R158: an accepted data operation begins with BOUNDS; a rejected range ends it before any
transport call and before the clock is read; no state but RESULT and SEQ changes. Of the output stream RDATA, which is no
state (10_state.md R20), this says nothing: `Obligations.AbortRestoresNothing` says what it is after every abort, this
one included. -/
def Obligations.AddressErrorBeforeAnyCall : Prop :=
  (∀ (a n : Word) (i : Instr) (s t : State), i ∈ [.read a n, .write a n, .clear a n, .erase a n] → s.seq = .idle →
    exec i s = .next t → t.seq = .dChk ∧ t.env = s.env) ∧
  ∀ s : State, s.resetLine = false → s.seq = .dChk → s.size.toNat < s.addr.toNat + s.len.toNat →
    ∃ t, step s = .next t ∧ t.env.history = s.env.history ∧ t.env.script = s.env.script ∧ t.env.chip = s.env.chip ∧
      t = { s with request := none, result := .addressError, seq := .idle, rdata := t.rdata, env := t.env } ∧
      (s.op ≠ .read → t.env = s.env)

/-! ### Acceptance (10_state.md) -/

/-- 10_state.md R32, R30 (row IDLE), 43_data_operations.md R174: in IDLE an INIT is accepted (the latches take the
request's fields, log 12); a data operation is accepted on a usable state and refused on another (decision D18). That
acceptance leaves RDATA is the model's choice (DESIGN CHOICE, log 27). -/
def Obligations.RequestAcceptance : Prop :=
  ∀ (a n : Word) (s : State), s.seq = .idle →
    exec (.init a n) s = .next { s with op := .init, addr := a, len := n, seq := .iSel } ∧
    (s.usable = true →
      exec (.read a n) s = .next { s with op := .read, addr := a, len := n, seq := .dChk } ∧
      exec (.write a n) s = .next { s with op := .write, addr := a, len := n, seq := .dChk } ∧
      exec (.clear a n) s = .next { s with op := .clear, addr := a, len := n, seq := .dChk } ∧
      exec (.erase a n) s = .next { s with op := .erase, addr := 0#32, len := s.size, seq := .dChk }) ∧
    (s.usable = false →
      exec (.read a n) s = .refused .notUsable ∧ exec (.write a n) s = .refused .notUsable ∧
      exec (.clear a n) s = .refused .notUsable ∧ exec (.erase a n) s = .refused .notUsable)

/-- 10_state.md R32, 70_reset_and_hazards.md R252: while an operation runs a request has no effect and is not
queued, and a step does not depend on what the host presents or will present. -/
def Obligations.BusyRequestHasNoEffect : Prop :=
  ∀ (s : State), s.seq ≠ .idle →
    (∀ a n, exec (.init a n) s = .next s ∧ exec (.read a n) s = .next s ∧ exec (.write a n) s = .next s ∧
      exec (.clear a n) s = .next s ∧ exec (.erase a n) s = .next s) ∧
    (s.resetLine = false → ∀ (q : Option Request) (p : List Request) (t : State), step s = .next t →
      t.request = none ∧ t.program = s.program ∧
      step { s with request := q, program := p } = .next { t with program := p })

/-- A step of the idle controller runs the request it takes: the one presented now, or else the first of the host's
list, and it holds exactly the write data presented with it, in its order (10_state.md R20, R32; logs 8, 25). A command
phase runs the command its frame encodes (R30; log 18); the word placed for a host operation is the one the next step
runs (log 19). -/
def Obligations.StepRunsDecodedInstruction : Prop :=
  (∀ s r t, s.resetLine = false → s.seq = .idle → s.takeRequest = some (r, t) → step s = exec (decodeReq r.req) t) ∧
  (∀ (s : State) r, s.request = some r → s.takeRequest = some (r, { s with request := none, wdata := r.wdata })) ∧
  (∀ (s : State) r later, s.request = none → s.program = r :: later →
    s.takeRequest = some (r, { s with program := later, wdata := r.wdata })) ∧
  (∀ s bs i, s.resetLine = false → s.command = some bs → decodeFrame bs = .instr i →
    step s = exec i { s with request := none }) ∧
  (∀ s, s.resetLine = false → s.seq = .idle → s.request = none → s.program = [] → step s = .next s) ∧
  (∀ (s : State) (w : Nat) (i : Instr), decodeTableWord 72 w = some i →
    step (s.withFetchWord 72 w) =
      exec i { s with resetLine := false, seq := .idle, request := none, wdata := [] })

/-! ### Whole operations (43_data_operations.md, 44_init.md) -/

/-- 44_init.md R200: from its first phase the sequencer performs INIT's pseudocode. -/
def Obligations.InitRefinesPseudocode : Prop :=
  ∀ s : State, s.quiet → s.seq = .iSel → Reaches s (initOperation s)

/-- 43_data_operations.md R170: from D_CHK the sequencer performs WRITE's pseudocode, however many polls it takes. -/
def Obligations.WriteRefinesPseudocode : Prop :=
  ∀ (polls : Nat) (s t : State), s.quiet → s.seq = .dChk → s.op = .write →
    writeOperation polls s = some t → Reaches s t

/-- 43_data_operations.md R171: the same for READ. -/
def Obligations.ReadRefinesPseudocode : Prop :=
  ∀ (polls : Nat) (s t : State), s.quiet → s.seq = .dChk → s.op = .read →
    readOperation polls s = some t → Reaches s t

/-- 43_data_operations.md R172, R173: the same for CLEAR, and for ERASE after its substitution. -/
def Obligations.ClearRefinesPseudocode : Prop :=
  ∀ (polls : Nat) (s t : State), s.quiet → s.seq = .dChk → (s.op = .clear ∨ s.op = .erase) →
    clearOperation polls s = some t → Reaches s t

/-- 44_init.md R200, R203: accepted and answered ok throughout, INIT ends after four calls with the result the
received bytes decide, and SIZE is written on full success only. That RDATA stays is the model's choice (log 27).
The answers are fixed by the script (logs 1, 6). -/
def Obligations.InitCompletes : Prop :=
  ∀ (s : State) (a n : Word) (b0 b1 b2 b3 : Byte) rest, s.quiet → s.seq = .idle →
    s.env.script = .ok :: .ok :: .bytes [b0, b1, b2, b3] :: .ok :: rest →
    ∃ u t, exec (.init a n) s = .next u ∧ Steps 5 u t ∧
      t = { s with
        op := .init, addr := a, len := n, idr := ⟨b0, b1, b2, b3⟩, size := t.size, result := t.result,
        env := { script := rest, chip := none, draws := s.env.draws,
                 history := [Call.des true, .rx 4 (some [b0, b1, b2, b3]), .tx [0x9F#8] true, .sel true] ++
                       s.env.history } } ∧
      (findDensity hw (b2.extractLsb' 0 5) = none → t.result = .unknownDensity ∧ t.size = s.size) ∧
      (∀ cap, findDensity hw (b2.extractLsb' 0 5) = some cap →
        (b0 ≠ 0x04#8 → t.result = .manufacturerIdError ∧ t.size = s.size) ∧
        (b0 = 0x04#8 → t.result = .ok ∧ t.size = cap ∧ t.usable = true))

/-- 43_data_operations.md R170, R179: WRITE accepted, first poll SET, every call ok: twelve calls, the frame and the
whole of WDATA in one call each, result Ok, IDR and SIZE untouched. That RDATA stays is the model's choice (log 27).
The answers are fixed by the script (logs 1, 6). -/
def Obligations.WriteCompletes : Prop :=
  ∀ (s : State) (a n now0 : Word) (b : Byte) rest, s.quiet → s.seq = .idle → s.usable = true →
    a.toNat + n.toNat ≤ s.size.toNat → s.wdata.length = n.toNat → b.getLsbD 1 = true →
    s.env.script = handshakeReplies now0 b ++ [Reply.ok, .ok, .ok, .ok] ++ rest →
    ∃ u bs, exec (.write a n) s = .next u ∧ frame hw s.idr 0x02#8 a = some bs ∧
      Steps 13 u (completed s .write a n now0 b rest
        (handshakeCalls now0 b ++ [Call.sel true, .tx bs true, .tx s.wdata true, .des true]))

/-- 43_data_operations.md R171, R179: READ accepted, first poll SET, every call ok: twelve calls, result Ok, RDATA the bytes received.
The answers are fixed by the script (logs 1, 6). -/
def Obligations.ReadCompletes : Prop :=
  ∀ (s : State) (a n now0 : Word) (b : Byte) (data : List Byte) rest, s.quiet → s.seq = .idle → s.usable = true →
    a.toNat + n.toNat ≤ s.size.toNat → data.length = n.toNat → b.getLsbD 1 = true →
    s.env.script = handshakeReplies now0 b ++ [Reply.ok, .ok, .bytes data, .ok] ++ rest →
    ∃ u bs, exec (.read a n) s = .next u ∧ frame hw s.idr 0x03#8 a = some bs ∧
      Steps 13 u { completed s .read a n now0 b rest
        (handshakeCalls now0 b ++ [Call.sel true, .tx bs true, .rx n.toNat (some data), .des true])
        with rdata := .bytes data }

/-- 43_data_operations.md R172, R179: CLEAR accepted, first poll SET, every call ok: `11 + LEN` calls, one zero byte
each, result Ok, IDX = LEN. That RDATA stays is the model's choice (log 27).
The answers are fixed by the script (logs 1, 6). -/
def Obligations.ClearCompletes : Prop :=
  ∀ (s : State) (a n now0 : Word) (b : Byte) rest, s.quiet → s.seq = .idle → s.usable = true →
    a.toNat + n.toNat ≤ s.size.toNat → b.getLsbD 1 = true →
    s.env.script = handshakeReplies now0 b ++ [Reply.ok, .ok] ++ List.replicate n.toNat Reply.ok ++ [Reply.ok] ++ rest →
    ∃ u bs, exec (.clear a n) s = .next u ∧ frame hw s.idr 0x02#8 a = some bs ∧
      Steps (13 + n.toNat) u { completed s .clear a n now0 b rest
        (handshakeCalls now0 b ++ [Call.sel true, .tx bs true] ++
          List.replicate n.toNat (Call.tx [0x00#8] true) ++ [Call.des true])
        with idx := n }

/-- 43_data_operations.md R173, R179, 30_encoding.md R95: ERASE is CLEAR 0, SIZE: `11 + SIZE` calls, the frame of
address 0, exactly SIZE zero bytes; its request's fields are ignored. That RDATA stays is the model's choice (log 27).
The answers are fixed by the script (logs 1, 6). -/
def Obligations.EraseCompletes : Prop :=
  ∀ (s : State) (a n now0 : Word) (b : Byte) rest, s.quiet → s.seq = .idle → s.usable = true → b.getLsbD 1 = true →
    s.env.script = handshakeReplies now0 b ++ [Reply.ok, .ok] ++ List.replicate s.size.toNat Reply.ok ++ [Reply.ok] ++ rest →
    ∃ u bs, exec (.erase a n) s = .next u ∧ frame hw s.idr 0x02#8 0#32 = some bs ∧
      Steps (13 + s.size.toNat) u { completed s .erase 0#32 s.size now0 b rest
        (handshakeCalls now0 b ++ [Call.sel true, .tx bs true] ++
          List.replicate s.size.toNat (Call.tx [0x00#8] true) ++ [Call.des true])
        with idx := s.size }

/-- 43_data_operations.md R172 (a), (b): a CLEAR whose byte `k` fails has made `k + 1` of its calls, leaves
`IDX = k`, returns SpiError and attempts no deselect.
The answers are fixed by the script (logs 1, 6). -/
def Obligations.ClearFailsAtByte : Prop :=
  ∀ (s : State) (k : Nat) rest, s.quiet → s.seq = .dClr → s.op ≠ .read → s.idx = 0#32 → k < s.len.toNat →
    s.env.script = List.replicate k Reply.ok ++ [Reply.fail] ++ rest →
    ∃ t, Steps (k + 1) s t ∧ t.result = .spiError ∧ t.seq = .idle ∧ t.idx.toNat = k ∧ t.env.script = rest ∧
      Called s t (List.replicate k (Call.tx [0x00#8] true) ++ [Call.tx [0x00#8] false])

/-- 43_data_operations.md R178 (the spec's decision D17): with `LEN = 0` WRITE still makes its data call and READ its
receive, with no byte; CLEAR, which begins its data phase with `IDX = 0`, makes none. -/
def Obligations.ZeroLengthDataPhase : Prop :=
  ∀ s t : State, s.resetLine = false → s.len = 0#32 → step s = .next t →
    (s.seq = .dWr → ∃ ok, t.env.history = .tx [] ok :: s.env.history) ∧
    (s.seq = .dRd → t.env.history = .rx 0 none :: s.env.history ∨
      (t.env.history = .rx 0 (some []) :: s.env.history ∧ t.rdata = .bytes [])) ∧
    (s.seq = .dClr → s.idx = 0#32 → t.env = s.env ∧ t.seq = .dDes)

/-! ### The array (20_memory.md), on the reference responder of 95_test_vectors.md section 4 (a fixture, log 4) -/

/-- 20_memory.md R57, R58: WRITE stores byte `k` of WDATA at `ADDR + k` and leaves every other byte. -/
def Obligations.WriteStoresOnResponder : Prop :=
  ∀ (s : State) (c : Chip) (a n : Word), respondsWell s c → a.toNat + n.toNat ≤ s.size.toNat →
    s.wdata.length = n.toNat →
    ∃ u t, exec (.write a n) s = .next u ∧ Steps 13 u t ∧ t.seq = .idle ∧ t.result = .ok ∧
      (∀ k, k < n.toNat → t.memRead (a.toNat + k) = s.wdata[k]?) ∧
      (∀ x, x < a.toNat ∨ a.toNat + n.toNat ≤ x → t.memRead x = s.memRead x) ∧
      ∃ d, respondsWell t d ∧ d.latch = false

/-- 20_memory.md R57, R58, R64, 70_reset_and_hazards.md R248: READ returns the bytes at `ADDR + k`, leaves the array as
it was, and leaves the write-enable latch set. -/
def Obligations.ReadLoadsFromResponder : Prop :=
  ∀ (s : State) (c : Chip) (a n : Word), respondsWell s c → a.toNat + n.toNat ≤ s.size.toNat →
    ∃ u t bs, exec (.read a n) s = .next u ∧ Steps 13 u t ∧ t.seq = .idle ∧ t.result = .ok ∧
      t.rdata = .bytes bs ∧ bs.length = n.toNat ∧ (∀ k, k < n.toNat → s.memRead (a.toNat + k) = bs[k]?) ∧
      (∀ x, t.memRead x = s.memRead x) ∧
      ∃ d, respondsWell t d ∧ d.latch = true

/-- 20_memory.md R57, R58: CLEAR stores zero at `ADDR + k` for every `k < LEN` and leaves every other byte. -/
def Obligations.ClearZeroesOnResponder : Prop :=
  ∀ (s : State) (c : Chip) (a n : Word), respondsWell s c → a.toNat + n.toNat ≤ s.size.toNat →
    ∃ u t, exec (.clear a n) s = .next u ∧ Steps (13 + n.toNat) u t ∧ t.seq = .idle ∧ t.result = .ok ∧
      (∀ k, k < n.toNat → t.memRead (a.toNat + k) = some 0x00#8) ∧
      (∀ x, x < a.toNat ∨ a.toNat + n.toNat ≤ x → t.memRead x = s.memRead x) ∧
      ∃ d, respondsWell t d ∧ d.latch = false

/-- 43_data_operations.md R173 (d), 20_memory.md R65 (source §8): ERASE leaves the array all zero, and erasing
again leaves it so. -/
def Obligations.EraseTwiceOnResponder : Prop :=
  ∀ (s : State) (c : Chip) (a n a' n' : Word), respondsWell s c →
    ∃ u t v w, exec (.erase a n) s = .next u ∧ Steps (13 + s.size.toNat) u t ∧
      exec (.erase a' n') t = .next v ∧ Steps (13 + s.size.toNat) v w ∧
      t.result = .ok ∧ w.result = .ok ∧ w.seq = .idle ∧
      ∀ x, x < s.size.toNat → t.memRead x = some 0x00#8 ∧ w.memRead x = some 0x00#8

/-- 20_memory.md R58, R64: the memory frame of a step: a byte of the attached array changes only by the data of a
transmit that falls into a write bracket with the latch set, at the responder's address pointer. -/
def Obligations.StepMemoryFrame : Prop :=
  ∀ s t : State, step s = .next t → ∀ a b, t.memRead a = some b →
    s.memRead a = some b ∨ ∃ c bs ok, s.env.chip = some c ∧ t.env.history = .tx bs ok :: s.env.history ∧
      c.cs = true ∧ c.cmd = some hw.opcWrite ∧ c.latch = true ∧ c.ptr ≤ a ∧ bs[a - c.ptr]? = some b

/-! ### The sequencer (10_state.md) -/

/-- 10_state.md R30, R31: a step takes an edge of the phase table. -/
def Obligations.PhaseEdges : Prop :=
  ∀ s t : State, s.resetLine = false → step s = .next t → t.seq ∈ edges s.seq

/-- 10_state.md R30 (action column), 20_memory.md R51, R53, R54: a step makes the one call of its phase, and none in
IDLE, I_DEC, D_CHK and at the end of the clear loop. -/
def Obligations.OneCallPerStep : Prop :=
  ∀ s t : State, s.resetLine = false → step s = .next t →
    if s.seq = .idle ∨ s.seq = .iDec ∨ s.seq = .dChk ∨ (s.seq = .dClr ∧ s.idx = s.len) then
      t.env.history = s.env.history
    else ∃ c, callOf s c ∧ t.env.history = c :: s.env.history

/-- 10_state.md R20 ("Written by"), R22, R33, R35, R36, R37: which steps can write which register. The last two clauses
are about the streams, which R20 says are not registers, and are the model's choice (DESIGN CHOICE): RDATA is kept at
acceptance and by every operation but READ, also when it aborts (logs 27, 11; 43_data_operations.md R171 says what the
stream holds when a READ has ended); WDATA changes only as a request is taken, and then with whatever operation it asks
for (log 25). -/
def Obligations.RegisterWriters : Prop :=
  ∀ s t : State, s.resetLine = false → step s = .next t →
    (t.idr ≠ s.idr → s.seq = .iRx) ∧ (t.sr ≠ s.sr → s.seq = .pRx) ∧ (t.t0 ≠ s.t0 → s.seq = .wT0) ∧
    (t.idx ≠ s.idx → s.seq = .dCmd ∨ s.seq = .dClr) ∧
    (t.op ≠ s.op ∨ t.addr ≠ s.addr ∨ t.len ≠ s.len → s.seq = .idle ∧ t.seq ≠ .idle) ∧
    (t.result ≠ s.result → s.seq ≠ .idle ∧ t.seq = .idle) ∧
    (t.rdata ≠ s.rdata → s.seq ≠ .idle ∧ (s.op = .read ∨ s.seq = .dRd)) ∧ (t.wdata ≠ s.wdata → s.seq = .idle)

/-- 10_state.md R26: SIZE is written by the last step of an INIT that succeeded, with a capacity of the table, and
by no other step; a failed INIT leaves it. -/
def Obligations.SizeWrittenOnlyByInit : Prop :=
  ∀ s t : State, s.resetLine = false → step s = .next t →
    (t.size ≠ s.size → s.seq = .iDec ∧ t.seq = .idle ∧ t.result = .ok) ∧
    (s.seq = .iDec → t.result = .ok →
      findDensity hw (density hw s.idr) = some t.size ∧ t.size ∈ hw.densityTable.map (·.2)) ∧
    (s.seq = .iDec → t.result ≠ .ok → t.size = s.size)

/-- 44_init.md R201, 10_state.md R29: INIT that returns Ok makes the state usable; no phase of a data operation changes that. -/
def Obligations.UsableComesFromInit : Prop :=
  ∀ s t : State, s.resetLine = false → step s = .next t →
    (s.seq = .iDec → t.result = .ok → t.usable = true) ∧
    (s.seq.isInit = false → t.usable = s.usable) ∧
    (t.usable = true → s.usable = false → s.seq = .iRx ∨ s.seq = .iDec)

/-! ### Errors (60_exceptions.md) -/

/-- 60_exceptions.md R210, 43_data_operations.md R176, 30_encoding.md R93, 44_init.md R200 (a): an operation ends with a
result its phase and its kind allow, and with that result's cause: the failed call, the failed comparison, the time
that has passed. -/
def Obligations.ErrorCauses : Prop :=
  ∀ s t : State, s.Inv → s.resetLine = false → s.seq ≠ .idle → step s = .next t → t.seq = .idle →
    match t.result with
    | .ok => s.seq = .iDec ∨ s.seq = .dDes
    | .csError => s.seq ∈ [.iSel, .iDes, .wSel, .wDes, .dSel, .dDes] ∧
        (t.env.history = .sel false :: s.env.history ∨ t.env.history = .des false :: s.env.history)
    | .spiError => s.seq ∈ [.iTx, .iRx, .wTx, .dCmd, .dWr, .dRd, .dClr] ∧
        ((∃ bs, t.env.history = .tx bs false :: s.env.history) ∨ ∃ n, t.env.history = .rx n none :: s.env.history)
    | .unknownDensity => s.seq = .iDec ∧ s.op = .init ∧ findDensity hw (density hw s.idr) = none
    | .manufacturerIdError => s.seq = .iDec ∧ s.op = .init ∧ findDensity hw (density hw s.idr) ≠ none ∧
        s.idr.b0 ≠ 0x04#8
    | .timeoutError => s.seq = .pTime ∧ s.op.isData = true ∧
        ∃ now : Word, t.env.history = .now now :: s.env.history ∧ 1000 < (now - s.t0).toNat
    | .addressError => s.seq = .dChk ∧ (s.op = .read ∨ s.op = .write ∨ s.op = .clear) ∧
        s.size.toNat < s.addr.toNat + s.len.toNat

/-- 60_exceptions.md R214: an abort sets RESULT and SEQ; every other register stays (IDR after a failed receive of
GET_ID and RDATA of a READ apart, which are then `any`), the host's inputs stay, and every byte of the attached
responder's array stays (a fixture, log 4). RDATA of a READ is
`any` by 43_data_operations.md R171 (b) (its form: log 11); that RDATA stays at the abort of another operation is the
model's choice (DESIGN CHOICE, logs 11, 27). -/
def Obligations.AbortRestoresNothing : Prop :=
  ∀ s t : State, s.resetLine = false → s.seq ≠ .idle → step s = .next t → t.seq = .idle → t.result ≠ .ok →
    t = { s with request := none, result := t.result, seq := .idle, idr := t.idr, rdata := t.rdata, env := t.env } ∧
    SameMemory s t ∧
    (s.seq ≠ .iRx → t.idr = s.idr) ∧ (s.op ≠ .read → t.rdata = s.rdata) ∧
    (s.op = .read → ∃ seed, t.rdata = .any seed s.len.toNat)

/-- 70_reset_and_hazards.md R247, 60_exceptions.md R214, 44_init.md R202: an operation that ends with SpiError leaves
chip-select asserted; one that ends with Ok, UnknownDensity or ManufacturerIdError has had its last deselect answered
ok, so chip-select is idle; CsError leaves it unknown. The line is read off the history (log 7). -/
def Obligations.ChipSelectAfterAbort : Prop :=
  ∀ s t : State, s.Inv → s.resetLine = false → s.seq ≠ .idle → step s = .next t → t.seq = .idle →
    (t.result = .spiError → t.line = some true) ∧
    (t.result = .ok ∨ t.result = .unknownDensity ∨ t.result = .manufacturerIdError → t.line = some false) ∧
    (t.result = .csError → t.line = none)

/-! ### Invariants, progress, reset -/

/-- The registers fit the phase, the responder's array keeps its canonical form, SIZE stays a legal capacity: from
every state that fits, every step leads to one that fits (10_state.md R26, R29, R30, R36; 20_memory.md R56). -/
def Obligations.InvariantKept : Prop :=
  ∀ s t : State, s.Inv → step s = .next t → t.Inv

/-- The invariant holds after reset. -/
def Obligations.InvariantAtReset : Prop := State.reset.Inv

/-- 43_data_operations.md R174, 30_encoding.md R92, 60_exceptions.md R212: a running operation is never stopped; the
only refusals are those of a request taken while idle. -/
def Obligations.RunningOperationsNeverStop : Prop :=
  ∀ s : State, s.Inv →
    (s.seq ≠ .idle ∨ s.resetLine = true → ∃ t, step s = .next t) ∧
    (∀ why, step s = .refused why → s.seq = .idle ∧
      ((why = .notUsable ∧ s.usable = false) ∨
        why ∈ [.reservedSelector 0#3, .reservedSelector 6#3, .reservedSelector 7#3]))

/-- 70_reset_and_hazards.md R240, R242, 10_state.md R20 (decision D9): the registers after reset; the reset event
takes them there in any phase, makes no transport call and leaves everything outside the controller as it was (the
streams and inputs: log 21). The state is then not usable (R241). -/
def Obligations.ResetValues : Prop :=
  (State.reset.idr = ⟨0#8, 0#8, 0#8, 0#8⟩ ∧ State.reset.sr = 0#8 ∧ State.reset.size = 0#32 ∧
    State.reset.result = .ok ∧ State.reset.op.code = 0#3 ∧ State.reset.addr = 0#32 ∧ State.reset.len = 0#32 ∧
    State.reset.seq = .idle ∧ State.reset.t0 = 0#32 ∧ State.reset.idx = 0#32 ∧ State.reset.usable = false) ∧
  ∀ s : State, s.resetLine = true → ∃ t, step s = .next t ∧
    t.idr = ⟨0#8, 0#8, 0#8, 0#8⟩ ∧ t.sr = 0#8 ∧ t.size = 0#32 ∧ t.result = .ok ∧ t.op = .unset ∧ t.addr = 0#32 ∧
    t.len = 0#32 ∧ t.seq = .idle ∧ t.t0 = 0#32 ∧ t.idx = 0#32 ∧ t.resetLine = false ∧ t.env = s.env ∧ t.usable = false

/-- 10_state.md R34, R20, R22, R33: in IDLE the host reads IDR (integer view), SR, SIZE and RESULT, whose numbers are
those of R33 (the spec's decision D3), and a read changes nothing; busy = `SEQ != IDLE` it reads at any time (log 20). -/
def Obligations.HostReadsInIdle : Prop :=
  (∀ s : State, s.seq = .idle →
    s.hostRead .idr = (s.idr.b3 ++ s.idr.b2 ++ s.idr.b1 ++ s.idr.b0, s) ∧
    s.hostRead .sr = (0x000000#24 ++ s.sr, s) ∧ s.hostRead .size = (s.size, s) ∧
    s.hostRead .result = (match s.result with
      | .ok => 0#32
      | .csError => 1#32
      | .spiError => 2#32
      | .unknownDensity => 3#32
      | .manufacturerIdError => 4#32
      | .timeoutError => 5#32
      | .addressError => 6#32, s)) ∧
  ∀ s : State, (s.seq = .idle → s.hostRead .busy = (0#32, s)) ∧ (s.seq ≠ .idle → s.hostRead .busy = (1#32, s))

/-! ### Other configurations (00_scope.md R7) -/

/-- 00_scope.md R7, 42_framing_and_bounds.md R150, R151, R152, 70_reset_and_hazards.md R251: the machine of another
configuration, here legacy frame mode. At this hardware's configuration it is this hardware's machine. In legacy mode
nothing but D_CMD differs, and D_CMD sends the width's address bytes with the value ADDR mod 256. -/
def Obligations.LegacyMachine : Prop :=
  (∀ i s, execAt hw i s = exec i s) ∧ (∀ s, stepAt hw s = step s) ∧
  (∀ s : State, s.seq ≠ .dCmd → stepAt legacy s = step s) ∧
  ∀ (s : State) (w : Nat), s.resetLine = false → s.seq = .dCmd → s.op.isData = true →
    addressWidth hw (density hw s.idr) = some w →
    ∃ opc bs, s.op.opcode hw = some opc ∧ bs.length = w ∧ bigEndianValue bs = s.addr.toNat % 256 ∧
      stepAt legacy s = .next (dataCommandEdge (opc :: bs) { s with request := none })
end

