-- ==== Sys2Proof/Laws/Memory.lean ====
section
/-! SUPPORT. The array: read after write, everything else left alone, and the canonical form kept. -/

namespace Sys2Proof.Machine

/-- The cells stand at rising addresses. -/
abbrev Rising (cs : List Host.Cell) : Prop := cs.Pairwise (fun x y => x.1 < y.1)

theorem lookupCell_below {a : Nat} {cs : List Host.Cell} (h : ∀ c ∈ cs, a < c.1) : lookupCell a cs = none := by
  induction cs with
  | nil => rfl
  | cons c rest ih =>
    have := h c (by simp)
    rw [lookupCell, if_neg (by omega)]
    exact ih fun d hd => h d (by simp [hd])

theorem lookupCell_insertCell_same (a : Nat) (b : Byte) (cs : List Host.Cell) :
    lookupCell a (insertCell a b cs) = some b := by
  induction cs with
  | nil => simp [insertCell, lookupCell]
  | cons c rest ih =>
    simp only [insertCell]
    split
    · simp [lookupCell]
    · split
      · simp [lookupCell]
      · rename_i h; simp only [lookupCell]; rw [if_neg fun e => h e.symm, ih]

theorem lookupCell_insertCell_other {a x : Nat} (hx : x ≠ a) (b : Byte) (cs : List Host.Cell) :
    lookupCell x (insertCell a b cs) = lookupCell x cs := by
  induction cs with
  | nil => simp [insertCell, lookupCell, Ne.symm hx]
  | cons c rest ih =>
    simp only [insertCell]
    split
    · simp [lookupCell, Ne.symm hx]
    · split
      · rename_i h; simp [lookupCell, Ne.symm hx, ← h]
      · simp [lookupCell, ih]

theorem lookupCell_removeCell_same (a : Nat) (cs : List Host.Cell) : lookupCell a (removeCell a cs) = none := by
  induction cs with
  | nil => rfl
  | cons c rest ih =>
    simp only [removeCell]
    split
    · exact ih
    · rename_i e; simp only [lookupCell]; rw [if_neg fun h => e h.symm]; exact ih

theorem lookupCell_removeCell_other {a x : Nat} (hx : x ≠ a) (cs : List Host.Cell) :
    lookupCell x (removeCell a cs) = lookupCell x cs := by
  induction cs with
  | nil => rfl
  | cons c rest ih =>
    simp only [removeCell]
    split
    · rename_i e; simp [lookupCell, ← e, Ne.symm hx, ih]
    · simp [lookupCell, ih]

theorem mem_insertCell {a : Nat} {b : Byte} {cs : List Host.Cell} {c : Host.Cell} (h : c ∈ insertCell a b cs) :
    c = (a, b) ∨ c ∈ cs := by
  induction cs with
  | nil => simpa [insertCell] using h
  | cons d rest ih =>
    simp only [insertCell] at h
    split at h
    · simpa using h
    · split at h
      · rcases List.mem_cons.1 h with h | h <;> simp [h]
      · rcases List.mem_cons.1 h with h | h
        · simp [h]
        · rcases ih h with h | h <;> simp [h]

theorem mem_removeCell {a : Nat} {cs : List Host.Cell} {c : Host.Cell} (h : c ∈ removeCell a cs) : c ∈ cs := by
  induction cs with
  | nil => simp [removeCell] at h
  | cons d rest ih =>
    simp only [removeCell] at h
    split at h
    · simp [ih h]
    · rcases List.mem_cons.1 h with h | h
      · simp [h]
      · simp [ih h]

theorem rising_insertCell (a : Nat) (b : Byte) {cs : List Host.Cell} (h : Rising cs) : Rising (insertCell a b cs) := by
  induction cs with
  | nil => simp [insertCell]
  | cons d rest ih =>
    obtain ⟨hd, hr⟩ := List.pairwise_cons.1 h
    simp only [insertCell]
    split
    · rename_i hlt
      refine List.pairwise_cons.2 ⟨fun c hc => ?_, h⟩
      rcases List.mem_cons.1 hc with e | hc
      · rw [e]; exact hlt
      · exact Nat.lt_trans hlt (hd c hc)
    · split
      · rename_i e
        exact List.pairwise_cons.2 ⟨fun c hc => e ▸ hd c hc, hr⟩
      · rename_i h1 h2
        refine List.pairwise_cons.2 ⟨fun c hc => ?_, ih hr⟩
        rcases mem_insertCell hc with e | hc
        · rw [e]; show d.1 < a; have : ¬ a < d.1 := h1; have : ¬ a = d.1 := h2; omega
        · exact hd c hc

theorem rising_removeCell (a : Nat) {cs : List Host.Cell} (h : Rising cs) : Rising (removeCell a cs) := by
  induction cs with
  | nil => simp [removeCell]
  | cons d rest ih =>
    obtain ⟨hd, hr⟩ := List.pairwise_cons.1 h
    simp only [removeCell]
    split
    · exact ih hr
    · exact List.pairwise_cons.2 ⟨fun c hc => hd c (mem_removeCell hc), ih hr⟩

namespace Memory

@[simp] theorem write_fill (m : Memory) (a : Nat) (b : Byte) : (m.write a b).fill = m.fill := by
  unfold write; split <;> rfl

theorem read_write_same (m : Memory) (a : Nat) (b : Byte) : (m.write a b).read a = b := by
  unfold write read
  split
  · rename_i e; simp [lookupCell_removeCell_same, e]
  · simp [lookupCell_insertCell_same]

theorem read_write_other (m : Memory) {a x : Nat} (hx : x ≠ a) (b : Byte) : (m.write a b).read x = m.read x := by
  unfold write read
  split
  · simp [lookupCell_removeCell_other hx]
  · simp [lookupCell_insertCell_other hx]

theorem write_wf {m : Memory} (h : m.wf) (a : Nat) (b : Byte) : (m.write a b).wf := by
  unfold write
  split
  · exact ⟨rising_removeCell a h.1, fun c hc => h.2 c (mem_removeCell hc)⟩
  · rename_i hb
    refine ⟨rising_insertCell a b h.1, fun c hc => ?_⟩
    rcases mem_insertCell hc with e | hc
    · rw [e]; exact hb
    · exact h.2 c hc

theorem write_within {m : Memory} {cap a : Nat} (h : m.within cap) (ha : a < cap) (b : Byte) :
    (m.write a b).within cap := by
  unfold write
  split
  · exact fun c hc => h c (mem_removeCell hc)
  · intro c hc
    rcases mem_insertCell hc with e | hc
    · rw [e]; exact ha
    · exact h c hc

@[simp] theorem store_fill (bs : List Byte) : ∀ (m : Memory) (a : Nat), (m.store a bs).fill = m.fill := by
  induction bs with
  | nil => intro m a; rfl
  | cons b rest ih => intro m a; rw [store, ih, write_fill]

theorem store_wf (bs : List Byte) : ∀ {m : Memory}, m.wf → ∀ a, (m.store a bs).wf := by
  induction bs with
  | nil => intro m h a; exact h
  | cons b rest ih => intro m h a; exact ih (write_wf h a b) (a + 1)

theorem store_within (bs : List Byte) {cap : Nat} :
    ∀ {m : Memory}, m.within cap → ∀ a, a + bs.length ≤ cap → (m.store a bs).within cap := by
  induction bs with
  | nil => intro m h a _; exact h
  | cons b rest ih =>
    intro m h a ha
    simp only [List.length_cons] at ha
    exact ih (write_within h (by omega) b) (a + 1) (by omega)

/-- Outside the stored bytes nothing changes. -/
theorem read_store_outside (bs : List Byte) :
    ∀ (m : Memory) (a x : Nat), x < a ∨ a + bs.length ≤ x → (m.store a bs).read x = m.read x := by
  induction bs with
  | nil => intro m a x _; rfl
  | cons b rest ih =>
    intro m a x hx
    simp only [List.length_cons] at hx
    rw [store, ih (m.write a b) (a + 1) x (by omega), read_write_other m (by omega)]

/-- Byte `k` of the stored bytes stands at `a + k`. -/
theorem read_store_inside (bs : List Byte) :
    ∀ (m : Memory) (a k : Nat) (hk : k < bs.length), (m.store a bs).read (a + k) = bs[k] := by
  induction bs with
  | nil => intro m a k hk; simp at hk
  | cons b rest ih =>
    intro m a k hk
    rw [store]
    cases k with
    | zero =>
      rw [read_store_outside rest _ _ _ (by omega)]
      exact read_write_same m a b
    | succ k =>
      have := ih (m.write a b) (a + 1) k (by simpa using hk)
      simpa [Nat.add_assoc, Nat.add_comm 1 k] using this

@[simp] theorem load_length (m : Memory) (a n : Nat) : (m.load a n).length = n := by simp [load]

end Memory

/-- Every call the responder answers keeps its array canonical. -/
theorem Chip.select_wf {c : Chip} (h : c.wf) : c.select.wf := h

theorem Chip.deselect_wf {c : Chip} (h : c.wf) : c.deselect.wf := h

theorem Chip.command_mem {c d : Chip} {bs : List Byte} (h : c.command bs = some d) : d.mem = c.mem ∧ d.cap = c.cap := by
  unfold Chip.command at h
  split at h
  · simp at h
  · split at h
    · simp at h; simp [← h]
    · split at h
      · split at h
        · simp at h; simp [← h]
        · simp at h
      · simp at h; simp [← h]

theorem Chip.writeData_mem {c d : Chip} {bs : List Byte} (h : c.writeData bs = some d) :
    d.cap = c.cap ∧ (d.mem = c.mem ∨
      (c.latch = true ∧ c.ptr + bs.length ≤ c.cap ∧ d.mem = c.mem.store c.ptr bs)) := by
  unfold Chip.writeData at h
  split at h
  · rename_i hl
    split at h
    · rename_i hc; simp at h; simp [← h, hl, hc]
    · simp at h
  · simp at h; simp [← h]

/-- What a transmit does to the array: nothing, or the data of a write bracket at the address pointer. -/
theorem Chip.transmit_mem {c d : Chip} {bs : List Byte} (h : c.transmit bs = some d) :
    d.cap = c.cap ∧ (d.mem = c.mem ∨ (c.cs = true ∧ c.cmd = some Config.hw.opcWrite ∧ c.latch = true ∧
      c.ptr + bs.length ≤ c.cap ∧ d.mem = c.mem.store c.ptr bs)) := by
  unfold Chip.transmit at h
  split at h
  · rename_i hs
    split at h
    · have := Chip.command_mem h; exact ⟨this.2, .inl this.1⟩
    · rename_i op ho
      split at h
      · rename_i he
        obtain ⟨hcap, hm⟩ := Chip.writeData_mem h
        refine ⟨hcap, hm.imp id fun hm => ⟨hs, by rw [ho, he], hm⟩⟩
      · simp at h
  · simp at h

theorem Chip.transmit_wf {c d : Chip} {bs : List Byte} (hw : c.wf) (h : c.transmit bs = some d) : d.wf := by
  obtain ⟨hcap, hm | ⟨-, -, -, hr, hm⟩⟩ := Chip.transmit_mem h
  · exact ⟨hm ▸ hw.1, by rw [Memory.within, hm, hcap]; exact hw.2⟩
  · exact ⟨hm ▸ Memory.store_wf bs hw.1 _, by rw [hm, hcap]; exact Memory.store_within bs hw.2 _ hr⟩

theorem Chip.status_mem (c : Chip) : c.status.2.mem = c.mem ∧ c.status.2.cap = c.cap := by
  unfold Chip.status; split <;> simp

/-- A receive leaves the array alone and answers as many bytes as asked. -/
theorem Chip.receive_mem {c d : Chip} {n : Nat} {bs : List Byte} (h : c.receive n = some (bs, d)) :
    d.mem = c.mem ∧ d.cap = c.cap ∧ bs.length = n := by
  unfold Chip.receive at h
  split at h
  · split at h
    · split at h
      · rename_i hn; simp at h; simp [← h.1, ← h.2, hn]
      · simp at h
    · split at h
      · split at h
        · rename_i hn; simp at h; simp [← h.1, ← h.2, hn, Chip.status_mem]
        · simp at h
      · split at h
        · split at h
          · simp at h; simp [← h.1, ← h.2]
          · simp at h
        · simp at h
  · simp at h

theorem Chip.receive_wf {c d : Chip} {n : Nat} {bs : List Byte} (hw : c.wf) (h : c.receive n = some (bs, d)) : d.wf := by
  obtain ⟨hm, hc, -⟩ := Chip.receive_mem h
  exact ⟨hm ▸ hw.1, by rw [Memory.within, hm, hc]; exact hw.2⟩

theorem Chip.now_mem {c d : Chip} {t : Word} (h : c.now = some (t, d)) : d.mem = c.mem ∧ d.cap = c.cap := by
  unfold Chip.now at h
  split at h
  · simp at h
  · simp at h; simp [← h.2]

theorem Chip.now_wf {c d : Chip} {t : Word} (hw : c.wf) (h : c.now = some (t, d)) : d.wf := by
  obtain ⟨hm, hc⟩ := Chip.now_mem h
  exact ⟨hm ▸ hw.1, by rw [Memory.within, hm, hc]; exact hw.2⟩

end Sys2Proof.Machine
end

