-- ==== Sys2Proof/Laws/Transport.lean ====
section
/-! SUPPORT. What each transport primitive can do: it logs one call, and touches the responder's array only by the
data of a write bracket; and what it answers when the script or an attached responder fixes the answer. -/

namespace Sys2Proof.Machine

@[simp] theorem freeBytes_length (seed n : Nat) : (freeBytes seed n).length = n := by simp [freeBytes]

namespace Env

variable (e : Env)

@[simp] theorem popReply_history : e.popReply.history = e.history := rfl
@[simp] theorem popReply_chip : e.popReply.chip = e.chip := rfl
@[simp] theorem popReply_draws : e.popReply.draws = e.draws := rfl
@[simp] theorem popReply_script : e.popReply.script = e.script.tail := rfl
@[simp] theorem detach_history : e.detach.history = e.history := rfl
@[simp] theorem detach_chip : e.detach.chip = none := rfl
@[simp] theorem detach_draws : e.detach.draws = e.draws := rfl
@[simp] theorem detach_script : e.detach.script = e.script := rfl
@[simp] theorem record_history (c : Call) : (e.record c).history = c :: e.history := rfl
@[simp] theorem record_chip (c : Call) : (e.record c).chip = e.chip := rfl
@[simp] theorem record_draws (c : Call) : (e.record c).draws = e.draws := rfl
@[simp] theorem record_script (c : Call) : (e.record c).script = e.script := rfl
@[simp] theorem skip_history (n : Nat) : (e.skip n).history = e.history := rfl
@[simp] theorem skip_chip (n : Nat) : (e.skip n).chip = e.chip := rfl
@[simp] theorem skip_draws (n : Nat) : (e.skip n).draws = e.draws + n := rfl
@[simp] theorem skip_script (n : Nat) : (e.skip n).script = e.script := rfl

/-- `f`'s responder, if any, is `e`'s with the same array. -/
def KeepsArray (e f : Env) : Prop := ∀ d, f.chip = some d → ∃ c, e.chip = some c ∧ d.mem = c.mem ∧ d.cap = c.cap

theorem KeepsArray.refl (e : Env) : KeepsArray e e := fun d h => ⟨d, h, rfl, rfl⟩

theorem KeepsArray.trans {e f g : Env} (h : KeepsArray e f) (k : KeepsArray f g) : KeepsArray e g := by
  intro d hd
  obtain ⟨c, hc, hm, hp⟩ := k d hd
  obtain ⟨b, hb, hm', hp'⟩ := h c hc
  exact ⟨b, hb, hm.trans hm', hp.trans hp'⟩

theorem KeepsArray.of_none {e f : Env} (h : f.chip = none) : KeepsArray e f := fun d hd => by simp [h] at hd

theorem KeepsArray.of_eq {e f : Env} (h : f.chip = e.chip) : KeepsArray e f := fun d hd => ⟨d, h ▸ hd, rfl, rfl⟩

/-- `f`'s responder, if any, comes from `e`'s by at most a store of `bs` at its address pointer in a write
bracket with the latch set. -/
def StoresAtMost (bs : List Byte) (e f : Env) : Prop := ∀ d, f.chip = some d → ∃ c, e.chip = some c ∧
  d.cap = c.cap ∧ (d.mem = c.mem ∨ (c.cs = true ∧ c.cmd = some Config.hw.opcWrite ∧ c.latch = true ∧
    c.ptr + bs.length ≤ c.cap ∧ d.mem = c.mem.store c.ptr bs))

theorem KeepsArray.storesAtMost {e f : Env} (h : KeepsArray e f) (bs : List Byte) : StoresAtMost bs e f := by
  intro d hd
  obtain ⟨c, hc, hm, hp⟩ := h d hd
  exact ⟨c, hc, hp, .inl hm⟩

/-! ### The environment's own answers -/

theorem ownSelect_history : e.ownSelect.2.history = e.history := by unfold ownSelect; split <;> rfl
theorem ownDeselect_history : e.ownDeselect.2.history = e.history := by unfold ownDeselect; split <;> rfl
theorem ownTransmit_history (bs : List Byte) : (e.ownTransmit bs).2.history = e.history := by
  unfold ownTransmit; split <;> [split; skip] <;> rfl
theorem ownReceive_history (n : Nat) : (e.ownReceive n).2.history = e.history := by
  unfold ownReceive; split <;> [split; skip] <;> rfl
theorem ownNow_history : e.ownNow.2.history = e.history := by unfold ownNow; split <;> [split; skip] <;> rfl

theorem ownSelect_keepsArray : KeepsArray e e.ownSelect.2 := by
  unfold ownSelect
  split
  · rename_i c hc; intro d hd; simp at hd; exact ⟨c, hc, by simp [← hd, Chip.select], by simp [← hd, Chip.select]⟩
  · exact .of_eq rfl

theorem ownDeselect_keepsArray : KeepsArray e e.ownDeselect.2 := by
  unfold ownDeselect
  split
  · rename_i c hc; intro d hd; simp at hd; exact ⟨c, hc, by simp [← hd, Chip.deselect], by simp [← hd, Chip.deselect]⟩
  · exact .of_eq rfl

theorem ownReceive_keepsArray (n : Nat) : KeepsArray e (e.ownReceive n).2 := by
  unfold ownReceive
  split
  · rename_i c hc
    split
    · rename_i bs c' h; intro d hd; simp at hd
      exact ⟨c, hc, hd ▸ (Chip.receive_mem h).1, hd ▸ (Chip.receive_mem h).2.1⟩
    · exact .of_none rfl
  · exact .of_eq rfl

theorem ownNow_keepsArray : KeepsArray e e.ownNow.2 := by
  unfold ownNow
  split
  · rename_i c hc
    split
    · rename_i bs c' h; intro d hd; simp at hd
      exact ⟨c, hc, hd ▸ (Chip.now_mem h).1, hd ▸ (Chip.now_mem h).2⟩
    · exact .of_eq rfl
  · exact .of_eq rfl

theorem ownTransmit_storesAtMost (bs : List Byte) : StoresAtMost bs e (e.ownTransmit bs).2 := by
  unfold ownTransmit
  split
  · rename_i c hc
    split
    · rename_i c' h; intro d hd; simp at hd; exact ⟨c, hc, hd ▸ Chip.transmit_mem h⟩
    · exact (KeepsArray.of_none rfl).storesAtMost bs
  · exact (KeepsArray.of_eq rfl).storesAtMost bs

/-- An answer of `receive(n)` has `n` bytes (20_memory.md R50). -/
theorem freeReceive_length {n : Nat} {bs : List Byte} (h : (e.freeReceive n).1 = some bs) : bs.length = n := by
  unfold freeReceive at h
  by_cases hk : Config.freeOk e.draws = true <;> simp [hk] at h
  simp [← h]

theorem ownReceive_length {n : Nat} {bs : List Byte} (h : (e.ownReceive n).1 = some bs) : bs.length = n := by
  unfold ownReceive at h
  split at h
  · split at h
    · rename_i hr; simp at h; exact h ▸ (Chip.receive_mem hr).2.2
    · exact freeReceive_length _ h
  · exact freeReceive_length _ h

/-! ### One call, one entry in the history -/

theorem ack_history {own : Env → Bool × Env} (h : ∀ f, (own f).2.history = f.history) :
    (e.ack own).2.history = e.history := by unfold ack; split <;> simp [h]

theorem ack_keepsArray {own : Env → Bool × Env} (h : ∀ f, KeepsArray f (own f).2) : KeepsArray e (e.ack own).2 := by
  unfold ack
  split
  · exact .of_none rfl
  · exact .of_eq rfl
  all_goals exact (KeepsArray.of_eq rfl).trans (h _)

@[simp] theorem select_history : e.select.2.history = .sel e.select.1 :: e.history := by
  simp [select, ack_history e ownSelect_history]
@[simp] theorem deselect_history : e.deselect.2.history = .des e.deselect.1 :: e.history := by
  simp [deselect, ack_history e ownDeselect_history]
@[simp] theorem transmit_history (bs : List Byte) :
    (e.transmit bs).2.history = .tx bs (e.transmit bs).1 :: e.history := by
  simp [transmit, ack_history e (ownTransmit_history · bs)]
@[simp] theorem receive_history (n : Nat) :
    (e.receive n).2.history = .rx n (e.receive n).1 :: e.history := by
  have : (e.receiveAnswer n).2.history = e.history := by
    unfold receiveAnswer; split <;> [split; skip; skip; skip; skip] <;> simp [ownReceive_history]
  simp [receive, this]
@[simp] theorem now_history : e.now.2.history = .now e.now.1 :: e.history := by
  have : e.nowAnswer.2.history = e.history := by unfold nowAnswer; split <;> simp [ownNow_history]
  simp [now, this]

theorem receive_length {n : Nat} {bs : List Byte} (h : (e.receive n).1 = some bs) : bs.length = n := by
  unfold receive receiveAnswer at h
  simp only at h
  split at h
  · split at h
    · rename_i hl; simp at h; exact h ▸ hl
    · exact ownReceive_length _ h
  · simp at h
  all_goals exact ownReceive_length _ h

/-! ### The array is touched only by the data of a write bracket -/

theorem select_keepsArray : KeepsArray e e.select.2 := ack_keepsArray e ownSelect_keepsArray
theorem deselect_keepsArray : KeepsArray e e.deselect.2 := ack_keepsArray e ownDeselect_keepsArray
theorem receive_keepsArray (n : Nat) : KeepsArray e (e.receive n).2 := by
  have : KeepsArray e (e.receiveAnswer n).2 := by
    unfold receiveAnswer
    split
    · split
      · exact .of_none rfl
      · exact (KeepsArray.of_eq rfl).trans (ownReceive_keepsArray _ n)
    · exact .of_eq rfl
    all_goals exact (KeepsArray.of_eq rfl).trans (ownReceive_keepsArray _ n)
  exact this
theorem now_keepsArray : KeepsArray e e.now.2 := by
  have : KeepsArray e e.nowAnswer.2 := by
    unfold nowAnswer
    split
    · exact .of_eq rfl
    all_goals exact (KeepsArray.of_eq rfl).trans (ownNow_keepsArray _)
  exact this
theorem transmit_storesAtMost (bs : List Byte) : StoresAtMost bs e (e.transmit bs).2 := by
  have : StoresAtMost bs e (e.ack (ownTransmit bs)).2 := by
    unfold ack
    split
    · exact (KeepsArray.of_none rfl).storesAtMost bs
    · exact (KeepsArray.of_eq rfl).storesAtMost bs
    all_goals exact ownTransmit_storesAtMost _ bs
  exact this

/-- A transmit that fails stores nothing: a failure is scripted, or no responder is left to fail. -/
theorem transmit_fail_keepsArray {bs : List Byte} (h : (e.transmit bs).1 = false) :
    KeepsArray e (e.transmit bs).2 := by
  have own : ∀ f : Env, (f.ownTransmit bs).1 = false → KeepsArray f (f.ownTransmit bs).2 := by
    intro f hf
    unfold ownTransmit at hf ⊢
    split at hf
    · split at hf
      · cases hf
      · exact .of_none rfl
    · exact .of_eq rfl
  have h' : (e.ack (ownTransmit bs)).1 = false := h
  have : KeepsArray e (e.ack (ownTransmit bs)).2 := by
    unfold ack at h' ⊢
    split at h'
    · cases h'
    · exact .of_eq rfl
    all_goals exact (KeepsArray.of_eq rfl).trans (own _ h')
  exact this

/-- After a select that was answered ok an attached responder has no command yet. -/
theorem select_cmd {c : Chip} (h : e.select.1 = true) (hc : e.select.2.chip = some c) : c.cmd = none := by
  have own : ∀ f : Env, f.ownSelect.1 = true → f.ownSelect.2.chip = some c → c.cmd = none := by
    intro f _ hf
    unfold ownSelect at hf
    split at hf
    · simp at hf; rw [← hf]; rfl
    · rename_i hn; simp [freeAck, hn] at hf
  have h' : (e.ack ownSelect).1 = true := h
  have hc' : (e.ack ownSelect).2.chip = some c := hc
  unfold ack at h' hc'
  split at hc'
  · simp at hc'
  · rename_i heq; simp [heq] at h'
  all_goals (rename_i heq; simp only [heq] at h'; exact own _ h' hc')

/-- The first transmit of a bracket stores nothing: it is the command. -/
theorem select_transmit_keepsArray (h : e.select.1 = true) (bs : List Byte) :
    KeepsArray e (e.select.2.transmit bs).2 := by
  intro d hd
  obtain ⟨c, hc, hp, hm | ⟨-, hk, -⟩⟩ := transmit_storesAtMost e.select.2 bs d hd
  · obtain ⟨b, hb, hm', hp'⟩ := select_keepsArray e c hc
    exact ⟨b, hb, hm.trans hm', hp.trans hp'⟩
  · rw [select_cmd e h hc] at hk; cases hk

/-! ### The responder's array keeps its canonical form -/

/-- The canonical form of the attached array. -/
def ArrayWf (e : Env) : Prop := ∀ c, e.chip = some c → c.wf

theorem KeepsArray.arrayWf {e f : Env} (h : KeepsArray e f) (hw : e.ArrayWf) : f.ArrayWf := by
  intro d hd
  obtain ⟨c, hc, hm, hp⟩ := h d hd
  exact ⟨hm ▸ (hw c hc).1, by rw [hm, hp]; exact (hw c hc).2⟩

theorem StoresAtMost.arrayWf {bs : List Byte} {e f : Env} (h : StoresAtMost bs e f) (hw : e.ArrayWf) : f.ArrayWf := by
  intro d hd
  obtain ⟨c, hc, hp, hm | ⟨-, -, -, hr, hm⟩⟩ := h d hd
  · exact ⟨hm ▸ (hw c hc).1, by rw [Memory.within, hm, hp]; exact (hw c hc).2⟩
  · exact ⟨hm ▸ Memory.store_wf bs (hw c hc).1 _, by rw [hm, hp]; exact Memory.store_within bs (hw c hc).2 _ hr⟩

/-! ### Answers fixed by the script -/

variable {e}

theorem select_scripted_ok {r : List Reply} (h : e.script = .ok :: r) :
    e.select = (true, { script := r, chip := none, draws := e.draws, history := .sel true :: e.history }) := by
  simp [select, ack, reply, h, record, popReply, detach]
theorem select_scripted_fail {r : List Reply} (h : e.script = .fail :: r) :
    e.select = (false, { e with script := r, history := .sel false :: e.history }) := by
  simp [select, ack, reply, h, record, popReply]
theorem deselect_scripted_ok {r : List Reply} (h : e.script = .ok :: r) :
    e.deselect = (true, { script := r, chip := none, draws := e.draws, history := .des true :: e.history }) := by
  simp [deselect, ack, reply, h, record, popReply, detach]
theorem deselect_scripted_fail {r : List Reply} (h : e.script = .fail :: r) :
    e.deselect = (false, { e with script := r, history := .des false :: e.history }) := by
  simp [deselect, ack, reply, h, record, popReply]
theorem transmit_scripted_ok {r : List Reply} (h : e.script = .ok :: r) (bs : List Byte) :
    e.transmit bs = (true, { script := r, chip := none, draws := e.draws, history := .tx bs true :: e.history }) := by
  simp [transmit, ack, reply, h, record, popReply, detach]
theorem transmit_scripted_fail {r : List Reply} (h : e.script = .fail :: r) (bs : List Byte) :
    e.transmit bs = (false, { e with script := r, history := .tx bs false :: e.history }) := by
  simp [transmit, ack, reply, h, record, popReply]
theorem receive_scripted_bytes {r : List Reply} {bs : List Byte} {n : Nat} (h : e.script = .bytes bs :: r)
    (hn : bs.length = n) :
    e.receive n =
      (some bs, { script := r, chip := none, draws := e.draws, history := .rx n (some bs) :: e.history }) := by
  simp [receive, receiveAnswer, reply, h, record, popReply, detach, hn]
theorem receive_scripted_fail {r : List Reply} (h : e.script = .fail :: r) (n : Nat) :
    e.receive n = (none, { e with script := r, history := .rx n none :: e.history }) := by
  simp [receive, receiveAnswer, reply, h, record, popReply]
theorem now_scripted {r : List Reply} {t : Word} (h : e.script = .time t :: r) :
    e.now = (t, { e with script := r, history := .now t :: e.history }) := by
  simp [now, nowAnswer, reply, h, record, popReply]

/-! ### Answers of an attached responder, nothing scripted -/

theorem select_chip {c : Chip} (hs : e.script = []) (hc : e.chip = some c) :
    e.select = (true, { e with chip := some c.select, history := .sel true :: e.history }) := by
  simp [select, ack, reply, hs, record, popReply, ownSelect, hc]
theorem deselect_chip {c : Chip} (hs : e.script = []) (hc : e.chip = some c) :
    e.deselect = (true, { e with chip := some c.deselect, history := .des true :: e.history }) := by
  simp [deselect, ack, reply, hs, record, popReply, ownDeselect, hc]
theorem transmit_chip {c d : Chip} {bs : List Byte} (hs : e.script = []) (hc : e.chip = some c)
    (ht : c.transmit bs = some d) :
    e.transmit bs = (true, { e with chip := some d, history := .tx bs true :: e.history }) := by
  simp [transmit, ack, reply, hs, record, popReply, ownTransmit, hc, ht]
theorem receive_chip {c d : Chip} {n : Nat} {bs : List Byte} (hs : e.script = []) (hc : e.chip = some c)
    (ht : c.receive n = some (bs, d)) :
    e.receive n = (some bs, { e with chip := some d, history := .rx n (some bs) :: e.history }) := by
  simp [receive, receiveAnswer, reply, hs, record, popReply, ownReceive, hc, ht]

end Env

end Sys2Proof.Machine
end

