-- ==== Sys2Proof/Laws/Encoding.lean ====
section
/-! SUPPORT. Frames: the width of an address field, the bytes of a frame, and the command they decode to. -/

namespace Sys2Proof.Machine

open Config (hw)

/-- An address width is 3, 4 or undefined (40_density_and_id.md R114). -/
theorem addressWidth_cases (d : BitVec 5) :
    addressWidth hw d = none ∨ addressWidth hw d = some 3 ∨ addressWidth hw d = some 4 := by
  unfold addressWidth
  cases findDensity hw d with
  | none => exact .inl rfl
  | some cap =>
    simp only [Option.map_some]
    split
    · exact .inr (.inl rfl)
    · exact .inr (.inr rfl)

/-! ### Big-endian bytes -/

@[simp] theorem bigEndianBytes_length (n w : Nat) : (bigEndianBytes n w).length = n := by simp [bigEndianBytes]

theorem bigEndianBytes_succ (n w : Nat) : bigEndianBytes (n + 1) w = byteOf w n :: bigEndianBytes n w := by
  simp only [bigEndianBytes, List.range_succ_eq_map, List.map_cons, List.map_map]
  refine List.cons_eq_cons.2 ⟨by simp, List.map_congr_left fun i _ => ?_⟩
  simp only [Function.comp]
  congr 1
  omega

theorem foldl_bigEndian (bs : List Byte) (acc : Nat) :
    bs.foldl (fun acc b => acc * 256 + b.toNat) acc = acc * 256 ^ bs.length + bigEndianValue bs := by
  induction bs generalizing acc with
  | nil => simp [bigEndianValue]
  | cons b rest ih =>
    simp only [bigEndianValue, List.foldl_cons, List.length_cons]
    rw [ih, ih (0 * 256 + b.toNat)]
    ring

theorem bigEndianValue_cons (b : Byte) (bs : List Byte) :
    bigEndianValue (b :: bs) = b.toNat * 256 ^ bs.length + bigEndianValue bs := by
  rw [bigEndianValue, List.foldl_cons, foldl_bigEndian]; simp

/-- The bytes of a number have its low bits as their value. -/
theorem bigEndianValue_bytes (n w : Nat) : bigEndianValue (bigEndianBytes n w) = w % 256 ^ n := by
  induction n with
  | zero => simp [bigEndianBytes, bigEndianValue, Nat.mod_one]
  | succ n ih =>
    have e : (2 : Nat) ^ (8 * n) = 256 ^ n := by rw [Nat.pow_mul]
    rw [bigEndianBytes_succ, bigEndianValue_cons, ih, bigEndianBytes_length, byteOf, BitVec.toNat_ofNat, e,
      pow_succ 256, Nat.mod_mul (x := w), Nat.add_comm, Nat.mul_comm]

/-- Bytes with the same value are the same bytes. -/
theorem bigEndianBytes_congr {n v w : Nat} (h : v % 256 ^ n = w % 256 ^ n) : bigEndianBytes n v = bigEndianBytes n w := by
  induction n with
  | zero => rfl
  | succ n ih =>
    have e : (2 : Nat) ^ (8 * n) = 256 ^ n := by rw [Nat.pow_mul]
    rw [Nat.pow_succ, Nat.mod_mul, Nat.mod_mul] at h
    have hl : v % 256 ^ n = w % 256 ^ n := by
      have h2 := congrArg (· % 256 ^ n) h
      simpa [Nat.add_mul_mod_self_left] using h2
    have hh : v / 256 ^ n % 256 = w / 256 ^ n % 256 := by
      rw [hl] at h
      exact Nat.eq_of_mul_eq_mul_left (Nat.pow_pos (by decide)) (Nat.add_left_cancel h)
    rw [bigEndianBytes_succ, bigEndianBytes_succ, ih hl]
    congr 1
    apply BitVec.eq_of_toNat_eq
    simpa [byteOf, e] using hh

theorem bigEndianValue_lt (bs : List Byte) : bigEndianValue bs < 256 ^ bs.length := by
  induction bs with
  | nil => simp [bigEndianValue]
  | cons b rest ih =>
    have hb : b.toNat < 256 := b.isLt
    rw [bigEndianValue_cons, List.length_cons, Nat.pow_succ]
    nlinarith [Nat.mul_le_mul_right (256 ^ rest.length) (Nat.le_of_lt_succ hb)]

/-- A byte sequence is the bytes of its value. -/
theorem bigEndianBytes_value (bs : List Byte) : bigEndianBytes bs.length (bigEndianValue bs) = bs := by
  induction bs with
  | nil => rfl
  | cons b rest ih =>
    have e : (2 : Nat) ^ (8 * rest.length) = 256 ^ rest.length := by rw [Nat.pow_mul]
    have p : 0 < 256 ^ rest.length := Nat.pow_pos (by decide)
    rw [List.length_cons, bigEndianBytes_succ, bigEndianValue_cons]
    refine List.cons_eq_cons.2 ⟨BitVec.eq_of_toNat_eq ?_, (bigEndianBytes_congr (by simp)).trans ih⟩
    rw [byteOf, BitVec.toNat_ofNat, e, Nat.mul_comm, Nat.mul_add_div p, Nat.div_eq_of_lt (bigEndianValue_lt rest),
      Nat.add_zero]
    exact Nat.mod_eq_of_lt b.isLt

/-- The address bytes of FRAME are the big-endian bytes of the value its mode takes (42_framing_and_bounds.md R150). -/
theorem addressBytes_eq (c : Config.Cfg) (w : Nat) (a : Word) :
    addressBytes c w a = bigEndianBytes w (frameValue c a).toNat := by
  unfold addressBytes bigEndianBytes
  refine List.map_congr_left fun i _ => ?_
  apply BitVec.eq_of_toNat_eq
  simp [byteOf, BitVec.toNat_setWidth, BitVec.toNat_ushiftRight, Nat.shiftRight_eq_div_pow]

/-- Format W3, byte by byte (30_encoding.md R81). -/
theorem bigEndianBytes_three (a : BitVec 24) :
    bigEndianBytes 3 a.toNat = [a.extractLsb' 16 8, a.extractLsb' 8 8, a.extractLsb' 0 8] := by
  simp only [bigEndianBytes_succ, List.cons.injEq]
  refine ⟨?_, ?_, ?_, rfl⟩ <;> apply BitVec.eq_of_toNat_eq <;>
    simp [byteOf, BitVec.extractLsb'_toNat, Nat.shiftRight_eq_div_pow]

/-- Format W4, byte by byte (30_encoding.md R81). -/
theorem bigEndianBytes_four (a : BitVec 32) :
    bigEndianBytes 4 a.toNat = [a.extractLsb' 24 8, a.extractLsb' 16 8, a.extractLsb' 8 8, a.extractLsb' 0 8] := by
  simp only [bigEndianBytes_succ, List.cons.injEq]
  refine ⟨?_, ?_, ?_, ?_, rfl⟩ <;> apply BitVec.eq_of_toNat_eq <;>
    simp [byteOf, BitVec.extractLsb'_toNat, Nat.shiftRight_eq_div_pow]

/-- The frames of this hardware (42_framing_and_bounds.md R150, corrected mode). -/
theorem frame_cases {r : IdReg} {opc : Byte} {a : Word} {bs : List Byte} (h : frame hw r opc a = some bs) :
    (addressWidth hw (density hw r) = some 3 ∧ bs = opc :: bigEndianBytes 3 (a.setWidth 24).toNat) ∨
    (addressWidth hw (density hw r) = some 4 ∧ bs = opc :: bigEndianBytes 4 a.toNat) := by
  unfold frame at h
  rcases addressWidth_cases (density hw r) with e | e | e <;> rw [e] at h <;>
    simp only [Option.map_none, Option.map_some, Option.some.injEq, reduceCtorEq, addressBytes_eq] at h
  · refine .inl ⟨e, h.symm.trans (congrArg _ (bigEndianBytes_congr ?_))⟩
    simp [frameValue, hw, BitVec.toNat_setWidth]
  · exact .inr ⟨e, h.symm⟩

/-- What an admissible configuration says about the formats of 30_encoding.md R81, R85. -/
theorem admissible_formats {c : Config.Cfg} (h : admissible c = true) :
    (opcodes c).Nodup ∧ 1 ≤ c.awSmall ∧ c.awSmall ≤ 3 ∧ c.awSmall < c.awLarge ∧ c.awLarge ≤ 4 := by
  simp only [admissible, Bool.and_eq_true, decide_eq_true_eq] at h
  tauto

/-! ### Addressed frames decode to their commands, in every configuration -/

/-- A frame with a field is decoded by its length and its opcode (30_encoding.md R81). -/
theorem decodeFrame_field (c : Config.Cfg) (b : Byte) (n w : Nat) (hn : 1 ≤ n) :
    decodeFrame (b :: bigEndianBytes n w) c =
      if n = c.awSmall then
        if b = c.opcWrite then .instr (.wWriteW3 (BitVec.ofNat 24 (w % 256 ^ n)))
        else if b = c.opcRead then .instr (.wReadW3 (BitVec.ofNat 24 (w % 256 ^ n)))
        else rejectFrame b (n + 1) c
      else if n = c.awLarge then
        if b = c.opcWrite then .instr (.wWriteW4 (BitVec.ofNat 32 (w % 256 ^ n)))
        else if b = c.opcRead then .instr (.wReadW4 (BitVec.ofNat 32 (w % 256 ^ n)))
        else rejectFrame b (n + 1) c
      else rejectFrame b (n + 1) c := by
  obtain ⟨n, rfl⟩ : ∃ m, n = m + 1 := ⟨n - 1, by omega⟩
  rw [← bigEndianValue_bytes, bigEndianBytes_succ]
  simp only [decodeFrame, List.length_cons, bigEndianBytes_length]

theorem ofNat_field3 (a : BitVec 24) : BitVec.ofNat 24 (a.toNat % 256 ^ 3) = a :=
  BitVec.eq_of_toNat_eq (by have := a.isLt; simp; omega)
theorem ofNat_field4 (a : BitVec 32) : BitVec.ofNat 32 (a.toNat % 256 ^ 4) = a :=
  BitVec.eq_of_toNat_eq (by have := a.isLt; simp; omega)

theorem decodeFrame_writeW3 (a : BitVec 24) :
    decodeFrame (hw.opcWrite :: bigEndianBytes 3 a.toNat) = .instr (.wWriteW3 a) := by
  rw [decodeFrame_field hw _ _ _ (by decide), ofNat_field3]; rfl
theorem decodeFrame_writeW4 (a : BitVec 32) :
    decodeFrame (hw.opcWrite :: bigEndianBytes 4 a.toNat) = .instr (.wWriteW4 a) := by
  rw [decodeFrame_field hw _ _ _ (by decide), ofNat_field4]; rfl
theorem decodeFrame_readW3 (a : BitVec 24) :
    decodeFrame (hw.opcRead :: bigEndianBytes 3 a.toNat) = .instr (.wReadW3 a) := by
  rw [decodeFrame_field hw _ _ _ (by decide), ofNat_field3]; rfl
theorem decodeFrame_readW4 (a : BitVec 32) :
    decodeFrame (hw.opcRead :: bigEndianBytes 4 a.toNat) = .instr (.wReadW4 a) := by
  rw [decodeFrame_field hw _ _ _ (by decide), ofNat_field4]; rfl

/-! ### The fields of a request word (30_encoding.md R90) -/

theorem reqWord_toNat (op : BitVec 3) (a n : Word) :
    (reqWord op a n).toNat = op.toNat * 2 ^ 64 + a.toNat * 2 ^ 32 + n.toNat := by
  have h : (reqWord op a n).toNat = ((op ++ a : BitVec (3 + 32)).toNat <<< 32) ||| n.toNat := BitVec.toNat_append _ _
  rw [h, BitVec.toNat_append, ← Nat.shiftLeft_add_eq_or_of_lt a.isLt, ← Nat.shiftLeft_add_eq_or_of_lt n.isLt]
  simp only [Nat.shiftLeft_eq]
  omega

theorem reqWord_op (op : BitVec 3) (a n : Word) : (reqWord op a n).extractLsb' 64 3 = op := by
  apply BitVec.eq_of_toNat_eq
  have := op.isLt; have := a.isLt; have := n.isLt
  rw [BitVec.extractLsb'_toNat, reqWord_toNat, Nat.shiftRight_eq_div_pow]; omega

theorem reqWord_addr (op : BitVec 3) (a n : Word) : (reqWord op a n).extractLsb' 32 32 = a := by
  apply BitVec.eq_of_toNat_eq
  have := op.isLt; have := a.isLt; have := n.isLt
  rw [BitVec.extractLsb'_toNat, reqWord_toNat, Nat.shiftRight_eq_div_pow]; omega

theorem reqWord_len (op : BitVec 3) (a n : Word) : (reqWord op a n).extractLsb' 0 32 = n := by
  apply BitVec.eq_of_toNat_eq
  have := op.isLt; have := a.isLt; have := n.isLt
  rw [BitVec.extractLsb'_toNat, reqWord_toNat, Nat.shiftRight_eq_div_pow]; omega

theorem reqWord_fields (r : BitVec 67) :
    reqWord (r.extractLsb' 64 3) (r.extractLsb' 32 32) (r.extractLsb' 0 32) = r := by
  apply BitVec.eq_of_toNat_eq
  have := r.isLt
  rw [reqWord_toNat]
  simp only [BitVec.extractLsb'_toNat, Nat.shiftRight_eq_div_pow]
  omega

end Sys2Proof.Machine
end

