-- ==== Sys2Proof/Laws/State.lean ====
section
/-! SUPPORT. One lemma per field per update of State, so that no proof unfolds a record update. -/

namespace Sys2Proof.Machine.State

variable (s : State)

/-! `goto` -/

@[simp] theorem goto_idr (p : Phase) : (s.goto p).idr = s.idr := rfl
@[simp] theorem goto_sr (p : Phase) : (s.goto p).sr = s.sr := rfl
@[simp] theorem goto_size (p : Phase) : (s.goto p).size = s.size := rfl
@[simp] theorem goto_result (p : Phase) : (s.goto p).result = s.result := rfl
@[simp] theorem goto_op (p : Phase) : (s.goto p).op = s.op := rfl
@[simp] theorem goto_addr (p : Phase) : (s.goto p).addr = s.addr := rfl
@[simp] theorem goto_len (p : Phase) : (s.goto p).len = s.len := rfl
@[simp] theorem goto_seq (p : Phase) : (s.goto p).seq = p := rfl
@[simp] theorem goto_t0 (p : Phase) : (s.goto p).t0 = s.t0 := rfl
@[simp] theorem goto_idx (p : Phase) : (s.goto p).idx = s.idx := rfl
@[simp] theorem goto_wdata (p : Phase) : (s.goto p).wdata = s.wdata := rfl
@[simp] theorem goto_rdata (p : Phase) : (s.goto p).rdata = s.rdata := rfl
@[simp] theorem goto_request (p : Phase) : (s.goto p).request = s.request := rfl
@[simp] theorem goto_program (p : Phase) : (s.goto p).program = s.program := rfl
@[simp] theorem goto_resetLine (p : Phase) : (s.goto p).resetLine = s.resetLine := rfl
@[simp] theorem goto_env (p : Phase) : (s.goto p).env = s.env := rfl
@[simp] theorem goto_micro (p : Phase) : (s.goto p).micro = s.micro := rfl

/-! `setEnv` -/

@[simp] theorem setEnv_idr (e : Env) : (s.setEnv e).idr = s.idr := rfl
@[simp] theorem setEnv_sr (e : Env) : (s.setEnv e).sr = s.sr := rfl
@[simp] theorem setEnv_size (e : Env) : (s.setEnv e).size = s.size := rfl
@[simp] theorem setEnv_result (e : Env) : (s.setEnv e).result = s.result := rfl
@[simp] theorem setEnv_op (e : Env) : (s.setEnv e).op = s.op := rfl
@[simp] theorem setEnv_addr (e : Env) : (s.setEnv e).addr = s.addr := rfl
@[simp] theorem setEnv_len (e : Env) : (s.setEnv e).len = s.len := rfl
@[simp] theorem setEnv_seq (e : Env) : (s.setEnv e).seq = s.seq := rfl
@[simp] theorem setEnv_t0 (e : Env) : (s.setEnv e).t0 = s.t0 := rfl
@[simp] theorem setEnv_idx (e : Env) : (s.setEnv e).idx = s.idx := rfl
@[simp] theorem setEnv_wdata (e : Env) : (s.setEnv e).wdata = s.wdata := rfl
@[simp] theorem setEnv_rdata (e : Env) : (s.setEnv e).rdata = s.rdata := rfl
@[simp] theorem setEnv_request (e : Env) : (s.setEnv e).request = s.request := rfl
@[simp] theorem setEnv_program (e : Env) : (s.setEnv e).program = s.program := rfl
@[simp] theorem setEnv_resetLine (e : Env) : (s.setEnv e).resetLine = s.resetLine := rfl
@[simp] theorem setEnv_env (e : Env) : (s.setEnv e).env = e := rfl
@[simp] theorem setEnv_micro (e : Env) : (s.setEnv e).micro = s.micro := rfl

/-! `finishOk` -/

@[simp] theorem finishOk_idr : (s.finishOk).idr = s.idr := rfl
@[simp] theorem finishOk_sr : (s.finishOk).sr = s.sr := rfl
@[simp] theorem finishOk_size : (s.finishOk).size = s.size := rfl
@[simp] theorem finishOk_result : (s.finishOk).result = .ok := rfl
@[simp] theorem finishOk_op : (s.finishOk).op = s.op := rfl
@[simp] theorem finishOk_addr : (s.finishOk).addr = s.addr := rfl
@[simp] theorem finishOk_len : (s.finishOk).len = s.len := rfl
@[simp] theorem finishOk_seq : (s.finishOk).seq = .idle := rfl
@[simp] theorem finishOk_t0 : (s.finishOk).t0 = s.t0 := rfl
@[simp] theorem finishOk_idx : (s.finishOk).idx = s.idx := rfl
@[simp] theorem finishOk_wdata : (s.finishOk).wdata = s.wdata := rfl
@[simp] theorem finishOk_rdata : (s.finishOk).rdata = s.rdata := rfl
@[simp] theorem finishOk_request : (s.finishOk).request = s.request := rfl
@[simp] theorem finishOk_program : (s.finishOk).program = s.program := rfl
@[simp] theorem finishOk_resetLine : (s.finishOk).resetLine = s.resetLine := rfl
@[simp] theorem finishOk_env : (s.finishOk).env = s.env := rfl
@[simp] theorem finishOk_micro : (s.finishOk).micro = s.micro := rfl

/-! `setIdr` -/

@[simp] theorem setIdr_idr (bs : List Byte) : (s.setIdr bs).idr = IdReg.ofBytes bs := rfl
@[simp] theorem setIdr_sr (bs : List Byte) : (s.setIdr bs).sr = s.sr := rfl
@[simp] theorem setIdr_size (bs : List Byte) : (s.setIdr bs).size = s.size := rfl
@[simp] theorem setIdr_result (bs : List Byte) : (s.setIdr bs).result = s.result := rfl
@[simp] theorem setIdr_op (bs : List Byte) : (s.setIdr bs).op = s.op := rfl
@[simp] theorem setIdr_addr (bs : List Byte) : (s.setIdr bs).addr = s.addr := rfl
@[simp] theorem setIdr_len (bs : List Byte) : (s.setIdr bs).len = s.len := rfl
@[simp] theorem setIdr_seq (bs : List Byte) : (s.setIdr bs).seq = s.seq := rfl
@[simp] theorem setIdr_t0 (bs : List Byte) : (s.setIdr bs).t0 = s.t0 := rfl
@[simp] theorem setIdr_idx (bs : List Byte) : (s.setIdr bs).idx = s.idx := rfl
@[simp] theorem setIdr_wdata (bs : List Byte) : (s.setIdr bs).wdata = s.wdata := rfl
@[simp] theorem setIdr_rdata (bs : List Byte) : (s.setIdr bs).rdata = s.rdata := rfl
@[simp] theorem setIdr_request (bs : List Byte) : (s.setIdr bs).request = s.request := rfl
@[simp] theorem setIdr_program (bs : List Byte) : (s.setIdr bs).program = s.program := rfl
@[simp] theorem setIdr_resetLine (bs : List Byte) : (s.setIdr bs).resetLine = s.resetLine := rfl
@[simp] theorem setIdr_env (bs : List Byte) : (s.setIdr bs).env = s.env := rfl
@[simp] theorem setIdr_micro (bs : List Byte) : (s.setIdr bs).micro = s.micro := rfl

/-! `anyIdr` -/

@[simp] theorem anyIdr_idr : (s.anyIdr).idr = IdReg.ofBytes (freeBytes s.env.draws 4) := rfl
@[simp] theorem anyIdr_sr : (s.anyIdr).sr = s.sr := rfl
@[simp] theorem anyIdr_size : (s.anyIdr).size = s.size := rfl
@[simp] theorem anyIdr_result : (s.anyIdr).result = s.result := rfl
@[simp] theorem anyIdr_op : (s.anyIdr).op = s.op := rfl
@[simp] theorem anyIdr_addr : (s.anyIdr).addr = s.addr := rfl
@[simp] theorem anyIdr_len : (s.anyIdr).len = s.len := rfl
@[simp] theorem anyIdr_seq : (s.anyIdr).seq = s.seq := rfl
@[simp] theorem anyIdr_t0 : (s.anyIdr).t0 = s.t0 := rfl
@[simp] theorem anyIdr_idx : (s.anyIdr).idx = s.idx := rfl
@[simp] theorem anyIdr_wdata : (s.anyIdr).wdata = s.wdata := rfl
@[simp] theorem anyIdr_rdata : (s.anyIdr).rdata = s.rdata := rfl
@[simp] theorem anyIdr_request : (s.anyIdr).request = s.request := rfl
@[simp] theorem anyIdr_program : (s.anyIdr).program = s.program := rfl
@[simp] theorem anyIdr_resetLine : (s.anyIdr).resetLine = s.resetLine := rfl
@[simp] theorem anyIdr_env : (s.anyIdr).env = s.env.skip 4 := rfl
@[simp] theorem anyIdr_micro : (s.anyIdr).micro = s.micro := rfl

/-! `setSr` -/

@[simp] theorem setSr_idr (bs : List Byte) : (s.setSr bs).idr = s.idr := rfl
@[simp] theorem setSr_sr (bs : List Byte) : (s.setSr bs).sr = bs.getD 0 0 := rfl
@[simp] theorem setSr_size (bs : List Byte) : (s.setSr bs).size = s.size := rfl
@[simp] theorem setSr_result (bs : List Byte) : (s.setSr bs).result = s.result := rfl
@[simp] theorem setSr_op (bs : List Byte) : (s.setSr bs).op = s.op := rfl
@[simp] theorem setSr_addr (bs : List Byte) : (s.setSr bs).addr = s.addr := rfl
@[simp] theorem setSr_len (bs : List Byte) : (s.setSr bs).len = s.len := rfl
@[simp] theorem setSr_seq (bs : List Byte) : (s.setSr bs).seq = s.seq := rfl
@[simp] theorem setSr_t0 (bs : List Byte) : (s.setSr bs).t0 = s.t0 := rfl
@[simp] theorem setSr_idx (bs : List Byte) : (s.setSr bs).idx = s.idx := rfl
@[simp] theorem setSr_wdata (bs : List Byte) : (s.setSr bs).wdata = s.wdata := rfl
@[simp] theorem setSr_rdata (bs : List Byte) : (s.setSr bs).rdata = s.rdata := rfl
@[simp] theorem setSr_request (bs : List Byte) : (s.setSr bs).request = s.request := rfl
@[simp] theorem setSr_program (bs : List Byte) : (s.setSr bs).program = s.program := rfl
@[simp] theorem setSr_resetLine (bs : List Byte) : (s.setSr bs).resetLine = s.resetLine := rfl
@[simp] theorem setSr_env (bs : List Byte) : (s.setSr bs).env = s.env := rfl
@[simp] theorem setSr_micro (bs : List Byte) : (s.setSr bs).micro = s.micro := rfl

/-! `anySr` -/

@[simp] theorem anySr_idr : (s.anySr).idr = s.idr := rfl
@[simp] theorem anySr_sr : (s.anySr).sr = Config.freeByte s.env.draws := rfl
@[simp] theorem anySr_size : (s.anySr).size = s.size := rfl
@[simp] theorem anySr_result : (s.anySr).result = s.result := rfl
@[simp] theorem anySr_op : (s.anySr).op = s.op := rfl
@[simp] theorem anySr_addr : (s.anySr).addr = s.addr := rfl
@[simp] theorem anySr_len : (s.anySr).len = s.len := rfl
@[simp] theorem anySr_seq : (s.anySr).seq = s.seq := rfl
@[simp] theorem anySr_t0 : (s.anySr).t0 = s.t0 := rfl
@[simp] theorem anySr_idx : (s.anySr).idx = s.idx := rfl
@[simp] theorem anySr_wdata : (s.anySr).wdata = s.wdata := rfl
@[simp] theorem anySr_rdata : (s.anySr).rdata = s.rdata := rfl
@[simp] theorem anySr_request : (s.anySr).request = s.request := rfl
@[simp] theorem anySr_program : (s.anySr).program = s.program := rfl
@[simp] theorem anySr_resetLine : (s.anySr).resetLine = s.resetLine := rfl
@[simp] theorem anySr_env : (s.anySr).env = s.env.skip 1 := rfl
@[simp] theorem anySr_micro : (s.anySr).micro = s.micro := rfl

/-! `readT0` -/

@[simp] theorem readT0_idr : (s.readT0).idr = s.idr := rfl
@[simp] theorem readT0_sr : (s.readT0).sr = s.sr := rfl
@[simp] theorem readT0_size : (s.readT0).size = s.size := rfl
@[simp] theorem readT0_result : (s.readT0).result = s.result := rfl
@[simp] theorem readT0_op : (s.readT0).op = s.op := rfl
@[simp] theorem readT0_addr : (s.readT0).addr = s.addr := rfl
@[simp] theorem readT0_len : (s.readT0).len = s.len := rfl
@[simp] theorem readT0_seq : (s.readT0).seq = s.seq := rfl
@[simp] theorem readT0_t0 : (s.readT0).t0 = s.env.now.1 := rfl
@[simp] theorem readT0_idx : (s.readT0).idx = s.idx := rfl
@[simp] theorem readT0_wdata : (s.readT0).wdata = s.wdata := rfl
@[simp] theorem readT0_rdata : (s.readT0).rdata = s.rdata := rfl
@[simp] theorem readT0_request : (s.readT0).request = s.request := rfl
@[simp] theorem readT0_program : (s.readT0).program = s.program := rfl
@[simp] theorem readT0_resetLine : (s.readT0).resetLine = s.resetLine := rfl
@[simp] theorem readT0_env : (s.readT0).env = s.env.now.2 := rfl
@[simp] theorem readT0_micro : (s.readT0).micro = s.micro := rfl

/-! `setSize` -/

@[simp] theorem setSize_idr (c : Word) : (s.setSize c).idr = s.idr := rfl
@[simp] theorem setSize_sr (c : Word) : (s.setSize c).sr = s.sr := rfl
@[simp] theorem setSize_size (c : Word) : (s.setSize c).size = c := rfl
@[simp] theorem setSize_result (c : Word) : (s.setSize c).result = s.result := rfl
@[simp] theorem setSize_op (c : Word) : (s.setSize c).op = s.op := rfl
@[simp] theorem setSize_addr (c : Word) : (s.setSize c).addr = s.addr := rfl
@[simp] theorem setSize_len (c : Word) : (s.setSize c).len = s.len := rfl
@[simp] theorem setSize_seq (c : Word) : (s.setSize c).seq = s.seq := rfl
@[simp] theorem setSize_t0 (c : Word) : (s.setSize c).t0 = s.t0 := rfl
@[simp] theorem setSize_idx (c : Word) : (s.setSize c).idx = s.idx := rfl
@[simp] theorem setSize_wdata (c : Word) : (s.setSize c).wdata = s.wdata := rfl
@[simp] theorem setSize_rdata (c : Word) : (s.setSize c).rdata = s.rdata := rfl
@[simp] theorem setSize_request (c : Word) : (s.setSize c).request = s.request := rfl
@[simp] theorem setSize_program (c : Word) : (s.setSize c).program = s.program := rfl
@[simp] theorem setSize_resetLine (c : Word) : (s.setSize c).resetLine = s.resetLine := rfl
@[simp] theorem setSize_env (c : Word) : (s.setSize c).env = s.env := rfl
@[simp] theorem setSize_micro (c : Word) : (s.setSize c).micro = s.micro := rfl

/-! `setRdata` -/

@[simp] theorem setRdata_idr (bs : List Byte) : (s.setRdata bs).idr = s.idr := rfl
@[simp] theorem setRdata_sr (bs : List Byte) : (s.setRdata bs).sr = s.sr := rfl
@[simp] theorem setRdata_size (bs : List Byte) : (s.setRdata bs).size = s.size := rfl
@[simp] theorem setRdata_result (bs : List Byte) : (s.setRdata bs).result = s.result := rfl
@[simp] theorem setRdata_op (bs : List Byte) : (s.setRdata bs).op = s.op := rfl
@[simp] theorem setRdata_addr (bs : List Byte) : (s.setRdata bs).addr = s.addr := rfl
@[simp] theorem setRdata_len (bs : List Byte) : (s.setRdata bs).len = s.len := rfl
@[simp] theorem setRdata_seq (bs : List Byte) : (s.setRdata bs).seq = s.seq := rfl
@[simp] theorem setRdata_t0 (bs : List Byte) : (s.setRdata bs).t0 = s.t0 := rfl
@[simp] theorem setRdata_idx (bs : List Byte) : (s.setRdata bs).idx = s.idx := rfl
@[simp] theorem setRdata_wdata (bs : List Byte) : (s.setRdata bs).wdata = s.wdata := rfl
@[simp] theorem setRdata_rdata (bs : List Byte) : (s.setRdata bs).rdata = .bytes bs := rfl
@[simp] theorem setRdata_request (bs : List Byte) : (s.setRdata bs).request = s.request := rfl
@[simp] theorem setRdata_program (bs : List Byte) : (s.setRdata bs).program = s.program := rfl
@[simp] theorem setRdata_resetLine (bs : List Byte) : (s.setRdata bs).resetLine = s.resetLine := rfl
@[simp] theorem setRdata_env (bs : List Byte) : (s.setRdata bs).env = s.env := rfl
@[simp] theorem setRdata_micro (bs : List Byte) : (s.setRdata bs).micro = s.micro := rfl

/-! `startClear` -/

@[simp] theorem startClear_idr : (s.startClear).idr = s.idr := rfl
@[simp] theorem startClear_sr : (s.startClear).sr = s.sr := rfl
@[simp] theorem startClear_size : (s.startClear).size = s.size := rfl
@[simp] theorem startClear_result : (s.startClear).result = s.result := rfl
@[simp] theorem startClear_op : (s.startClear).op = s.op := rfl
@[simp] theorem startClear_addr : (s.startClear).addr = s.addr := rfl
@[simp] theorem startClear_len : (s.startClear).len = s.len := rfl
@[simp] theorem startClear_seq : (s.startClear).seq = .dClr := rfl
@[simp] theorem startClear_t0 : (s.startClear).t0 = s.t0 := rfl
@[simp] theorem startClear_idx : (s.startClear).idx = 0#32 := rfl
@[simp] theorem startClear_wdata : (s.startClear).wdata = s.wdata := rfl
@[simp] theorem startClear_rdata : (s.startClear).rdata = s.rdata := rfl
@[simp] theorem startClear_request : (s.startClear).request = s.request := rfl
@[simp] theorem startClear_program : (s.startClear).program = s.program := rfl
@[simp] theorem startClear_resetLine : (s.startClear).resetLine = s.resetLine := rfl
@[simp] theorem startClear_env : (s.startClear).env = s.env := rfl
@[simp] theorem startClear_micro : (s.startClear).micro = s.micro := rfl

/-! `bumpIdx` -/

@[simp] theorem bumpIdx_idr : (s.bumpIdx).idr = s.idr := rfl
@[simp] theorem bumpIdx_sr : (s.bumpIdx).sr = s.sr := rfl
@[simp] theorem bumpIdx_size : (s.bumpIdx).size = s.size := rfl
@[simp] theorem bumpIdx_result : (s.bumpIdx).result = s.result := rfl
@[simp] theorem bumpIdx_op : (s.bumpIdx).op = s.op := rfl
@[simp] theorem bumpIdx_addr : (s.bumpIdx).addr = s.addr := rfl
@[simp] theorem bumpIdx_len : (s.bumpIdx).len = s.len := rfl
@[simp] theorem bumpIdx_seq : (s.bumpIdx).seq = s.seq := rfl
@[simp] theorem bumpIdx_t0 : (s.bumpIdx).t0 = s.t0 := rfl
@[simp] theorem bumpIdx_idx : (s.bumpIdx).idx = s.idx + 1#32 := rfl
@[simp] theorem bumpIdx_wdata : (s.bumpIdx).wdata = s.wdata := rfl
@[simp] theorem bumpIdx_rdata : (s.bumpIdx).rdata = s.rdata := rfl
@[simp] theorem bumpIdx_request : (s.bumpIdx).request = s.request := rfl
@[simp] theorem bumpIdx_program : (s.bumpIdx).program = s.program := rfl
@[simp] theorem bumpIdx_resetLine : (s.bumpIdx).resetLine = s.resetLine := rfl
@[simp] theorem bumpIdx_env : (s.bumpIdx).env = s.env := rfl
@[simp] theorem bumpIdx_micro : (s.bumpIdx).micro = s.micro := rfl

/-! `answer` -/

@[simp] theorem answer_idr (m : MicroAnswer) : (s.answer m).idr = s.idr := rfl
@[simp] theorem answer_sr (m : MicroAnswer) : (s.answer m).sr = s.sr := rfl
@[simp] theorem answer_size (m : MicroAnswer) : (s.answer m).size = s.size := rfl
@[simp] theorem answer_result (m : MicroAnswer) : (s.answer m).result = s.result := rfl
@[simp] theorem answer_op (m : MicroAnswer) : (s.answer m).op = s.op := rfl
@[simp] theorem answer_addr (m : MicroAnswer) : (s.answer m).addr = s.addr := rfl
@[simp] theorem answer_len (m : MicroAnswer) : (s.answer m).len = s.len := rfl
@[simp] theorem answer_seq (m : MicroAnswer) : (s.answer m).seq = s.seq := rfl
@[simp] theorem answer_t0 (m : MicroAnswer) : (s.answer m).t0 = s.t0 := rfl
@[simp] theorem answer_idx (m : MicroAnswer) : (s.answer m).idx = s.idx := rfl
@[simp] theorem answer_wdata (m : MicroAnswer) : (s.answer m).wdata = s.wdata := rfl
@[simp] theorem answer_rdata (m : MicroAnswer) : (s.answer m).rdata = s.rdata := rfl
@[simp] theorem answer_request (m : MicroAnswer) : (s.answer m).request = s.request := rfl
@[simp] theorem answer_program (m : MicroAnswer) : (s.answer m).program = s.program := rfl
@[simp] theorem answer_resetLine (m : MicroAnswer) : (s.answer m).resetLine = s.resetLine := rfl
@[simp] theorem answer_env (m : MicroAnswer) : (s.answer m).env = s.env := rfl
@[simp] theorem answer_micro (m : MicroAnswer) : (s.answer m).micro = m := rfl

/-! `accept` -/

@[simp] theorem accept_idr (o : OpSel) (a l : Word) (p : Phase) : (s.accept o a l p).idr = s.idr := rfl
@[simp] theorem accept_sr (o : OpSel) (a l : Word) (p : Phase) : (s.accept o a l p).sr = s.sr := rfl
@[simp] theorem accept_size (o : OpSel) (a l : Word) (p : Phase) : (s.accept o a l p).size = s.size := rfl
@[simp] theorem accept_result (o : OpSel) (a l : Word) (p : Phase) : (s.accept o a l p).result = s.result := rfl
@[simp] theorem accept_op (o : OpSel) (a l : Word) (p : Phase) : (s.accept o a l p).op = o := rfl
@[simp] theorem accept_addr (o : OpSel) (a l : Word) (p : Phase) : (s.accept o a l p).addr = a := rfl
@[simp] theorem accept_len (o : OpSel) (a l : Word) (p : Phase) : (s.accept o a l p).len = l := rfl
@[simp] theorem accept_seq (o : OpSel) (a l : Word) (p : Phase) : (s.accept o a l p).seq = p := rfl
@[simp] theorem accept_t0 (o : OpSel) (a l : Word) (p : Phase) : (s.accept o a l p).t0 = s.t0 := rfl
@[simp] theorem accept_idx (o : OpSel) (a l : Word) (p : Phase) : (s.accept o a l p).idx = s.idx := rfl
@[simp] theorem accept_wdata (o : OpSel) (a l : Word) (p : Phase) : (s.accept o a l p).wdata = s.wdata := rfl
@[simp] theorem accept_rdata (o : OpSel) (a l : Word) (p : Phase) : (s.accept o a l p).rdata = s.rdata := rfl
@[simp] theorem accept_request (o : OpSel) (a l : Word) (p : Phase) : (s.accept o a l p).request = s.request := rfl
@[simp] theorem accept_program (o : OpSel) (a l : Word) (p : Phase) : (s.accept o a l p).program = s.program := rfl
@[simp] theorem accept_resetLine (o : OpSel) (a l : Word) (p : Phase) : (s.accept o a l p).resetLine = s.resetLine := rfl
@[simp] theorem accept_env (o : OpSel) (a l : Word) (p : Phase) : (s.accept o a l p).env = s.env := rfl
@[simp] theorem accept_micro (o : OpSel) (a l : Word) (p : Phase) : (s.accept o a l p).micro = s.micro := rfl

/-! `dropRequest` -/

@[simp] theorem dropRequest_idr : (s.dropRequest).idr = s.idr := rfl
@[simp] theorem dropRequest_sr : (s.dropRequest).sr = s.sr := rfl
@[simp] theorem dropRequest_size : (s.dropRequest).size = s.size := rfl
@[simp] theorem dropRequest_result : (s.dropRequest).result = s.result := rfl
@[simp] theorem dropRequest_op : (s.dropRequest).op = s.op := rfl
@[simp] theorem dropRequest_addr : (s.dropRequest).addr = s.addr := rfl
@[simp] theorem dropRequest_len : (s.dropRequest).len = s.len := rfl
@[simp] theorem dropRequest_seq : (s.dropRequest).seq = s.seq := rfl
@[simp] theorem dropRequest_t0 : (s.dropRequest).t0 = s.t0 := rfl
@[simp] theorem dropRequest_idx : (s.dropRequest).idx = s.idx := rfl
@[simp] theorem dropRequest_wdata : (s.dropRequest).wdata = s.wdata := rfl
@[simp] theorem dropRequest_rdata : (s.dropRequest).rdata = s.rdata := rfl
@[simp] theorem dropRequest_request : (s.dropRequest).request = none := rfl
@[simp] theorem dropRequest_program : (s.dropRequest).program = s.program := rfl
@[simp] theorem dropRequest_resetLine : (s.dropRequest).resetLine = s.resetLine := rfl
@[simp] theorem dropRequest_env : (s.dropRequest).env = s.env := rfl
@[simp] theorem dropRequest_micro : (s.dropRequest).micro = s.micro := rfl

/-! `applyReset` -/

@[simp] theorem applyReset_idr : (s.applyReset).idr = ⟨0, 0, 0, 0⟩ := rfl
@[simp] theorem applyReset_sr : (s.applyReset).sr = 0 := rfl
@[simp] theorem applyReset_size : (s.applyReset).size = 0 := rfl
@[simp] theorem applyReset_result : (s.applyReset).result = .ok := rfl
@[simp] theorem applyReset_op : (s.applyReset).op = .unset := rfl
@[simp] theorem applyReset_addr : (s.applyReset).addr = 0 := rfl
@[simp] theorem applyReset_len : (s.applyReset).len = 0 := rfl
@[simp] theorem applyReset_seq : (s.applyReset).seq = .idle := rfl
@[simp] theorem applyReset_t0 : (s.applyReset).t0 = 0 := rfl
@[simp] theorem applyReset_idx : (s.applyReset).idx = 0 := rfl
@[simp] theorem applyReset_wdata : (s.applyReset).wdata = [] := rfl
@[simp] theorem applyReset_rdata : (s.applyReset).rdata = .bytes [] := rfl
@[simp] theorem applyReset_request : (s.applyReset).request = none := rfl
@[simp] theorem applyReset_program : (s.applyReset).program = s.program := rfl
@[simp] theorem applyReset_resetLine : (s.applyReset).resetLine = false := rfl
@[simp] theorem applyReset_env : (s.applyReset).env = s.env := rfl
@[simp] theorem applyReset_micro : (s.applyReset).micro = .unset := rfl

/-! `spoilRdata` and `raise` -/

@[simp] theorem spoilRdata_idr : s.spoilRdata.idr = s.idr := by unfold spoilRdata; split <;> rfl
@[simp] theorem spoilRdata_sr : s.spoilRdata.sr = s.sr := by unfold spoilRdata; split <;> rfl
@[simp] theorem spoilRdata_size : s.spoilRdata.size = s.size := by unfold spoilRdata; split <;> rfl
@[simp] theorem spoilRdata_result : s.spoilRdata.result = s.result := by unfold spoilRdata; split <;> rfl
@[simp] theorem spoilRdata_op : s.spoilRdata.op = s.op := by unfold spoilRdata; split <;> rfl
@[simp] theorem spoilRdata_addr : s.spoilRdata.addr = s.addr := by unfold spoilRdata; split <;> rfl
@[simp] theorem spoilRdata_len : s.spoilRdata.len = s.len := by unfold spoilRdata; split <;> rfl
@[simp] theorem spoilRdata_seq : s.spoilRdata.seq = s.seq := by unfold spoilRdata; split <;> rfl
@[simp] theorem spoilRdata_t0 : s.spoilRdata.t0 = s.t0 := by unfold spoilRdata; split <;> rfl
@[simp] theorem spoilRdata_idx : s.spoilRdata.idx = s.idx := by unfold spoilRdata; split <;> rfl
@[simp] theorem spoilRdata_wdata : s.spoilRdata.wdata = s.wdata := by unfold spoilRdata; split <;> rfl
@[simp] theorem spoilRdata_request : s.spoilRdata.request = s.request := by unfold spoilRdata; split <;> rfl
@[simp] theorem spoilRdata_program : s.spoilRdata.program = s.program := by unfold spoilRdata; split <;> rfl
@[simp] theorem spoilRdata_resetLine : s.spoilRdata.resetLine = s.resetLine := by unfold spoilRdata; split <;> rfl
@[simp] theorem spoilRdata_micro : s.spoilRdata.micro = s.micro := by unfold spoilRdata; split <;> rfl
@[simp] theorem spoilRdata_rdata :
    s.spoilRdata.rdata = if s.op = .read then .any s.env.draws s.len.toNat else s.rdata := by
  unfold spoilRdata; split <;> rfl
@[simp] theorem spoilRdata_env :
    s.spoilRdata.env = s.env.skip (if s.op = .read then s.len.toNat else 0) := by
  unfold spoilRdata; split <;> rfl
@[simp] theorem raise_idr (r : Result) : (s.raise r).idr = s.idr := s.spoilRdata_idr
@[simp] theorem raise_sr (r : Result) : (s.raise r).sr = s.sr := s.spoilRdata_sr
@[simp] theorem raise_size (r : Result) : (s.raise r).size = s.size := s.spoilRdata_size
@[simp] theorem raise_result (r : Result) : (s.raise r).result = r := rfl
@[simp] theorem raise_op (r : Result) : (s.raise r).op = s.op := s.spoilRdata_op
@[simp] theorem raise_addr (r : Result) : (s.raise r).addr = s.addr := s.spoilRdata_addr
@[simp] theorem raise_len (r : Result) : (s.raise r).len = s.len := s.spoilRdata_len
@[simp] theorem raise_seq (r : Result) : (s.raise r).seq = .idle := rfl
@[simp] theorem raise_t0 (r : Result) : (s.raise r).t0 = s.t0 := s.spoilRdata_t0
@[simp] theorem raise_idx (r : Result) : (s.raise r).idx = s.idx := s.spoilRdata_idx
@[simp] theorem raise_wdata (r : Result) : (s.raise r).wdata = s.wdata := s.spoilRdata_wdata
@[simp] theorem raise_rdata (r : Result) :
    (s.raise r).rdata = if s.op = .read then .any s.env.draws s.len.toNat else s.rdata := s.spoilRdata_rdata
@[simp] theorem raise_request (r : Result) : (s.raise r).request = s.request := s.spoilRdata_request
@[simp] theorem raise_program (r : Result) : (s.raise r).program = s.program := s.spoilRdata_program
@[simp] theorem raise_resetLine (r : Result) : (s.raise r).resetLine = s.resetLine := s.spoilRdata_resetLine
@[simp] theorem raise_env (r : Result) :
    (s.raise r).env = s.env.skip (if s.op = .read then s.len.toNat else 0) := s.spoilRdata_env
@[simp] theorem raise_micro (r : Result) : (s.raise r).micro = s.micro := s.spoilRdata_micro

/-- What an abort does, as one record (60_exceptions.md R214; 43_data_operations.md R171 (b) for READ). -/
theorem raise_eq (r : Result) :
    s.raise r = { s with
      result := r, seq := .idle,
      rdata := if s.op = .read then .any s.env.draws s.len.toNat else s.rdata,
      env := s.env.skip (if s.op = .read then s.len.toNat else 0) } := by
  unfold raise spoilRdata; split <;> rfl

end Sys2Proof.Machine.State
end

