-- ==== Sys2Proof/Laws/Flags.lean ====
section
/-! SUPPORT. The lookup, `Usable` and the write data: what each says, once. -/

namespace Sys2Proof.Machine

open Config (hw)

/-- Registers of 32 bits hold a quantity as it is (00_scope.md R7: `XLEN` is 32). -/
@[simp] theorem regWord_hw (w : Word) : regWord hw w = w := rfl

/-- A lookup that succeeds finds a row of the table (40_density_and_id.md R111). -/
theorem lookupDensity_mem {d : BitVec 5} {cap : Word} {t : List (BitVec 5 × Word)} (h : lookupDensity d t = some cap) :
    (d, cap) ∈ t := by
  induction t with
  | nil => simp [lookupDensity] at h
  | cons e rest ih =>
    obtain ⟨code, c⟩ := e
    simp only [lookupDensity] at h
    split at h
    · rename_i he; cases h; simp [he]
    · exact List.mem_cons_of_mem _ (ih h)

theorem findDensity_capacity {c : Config.Cfg} {d : BitVec 5} {cap : Word} (h : findDensity c d = some cap) :
    cap ∈ c.densityTable.map (·.2) := List.mem_map.2 ⟨(d, cap), lookupDensity_mem h, rfl⟩

/-- `Usable` (10_state.md R29). -/
theorem State.usable_iff (s : State) :
    s.usable = true ↔ findDensity hw (density hw s.idr) = some s.size ∧ manufacturerOk hw s.idr = true := by
  simp only [State.usable, usableRegs, Bool.and_eq_true, decide_eq_true_eq]

/-- `Usable` reads IDR and SIZE only. -/
theorem State.usable_congr {s t : State} (hi : t.idr = s.idr) (hz : t.size = s.size) : t.usable = s.usable := by
  unfold State.usable; rw [hi, hz]

/-! The updates that write neither IDR nor SIZE leave `Usable` alone. -/

@[simp] theorem State.goto_usable (s : State) (p : Phase) : (s.goto p).usable = s.usable := usable_congr (by simp) (by simp)
@[simp] theorem State.setEnv_usable (s : State) (e : Env) : (s.setEnv e).usable = s.usable := usable_congr (by simp) (by simp)
@[simp] theorem State.raise_usable (s : State) (r : Result) : (s.raise r).usable = s.usable := usable_congr (by simp) (by simp)
@[simp] theorem State.finishOk_usable (s : State) : (s.finishOk).usable = s.usable := usable_congr (by simp) (by simp)
@[simp] theorem State.setSr_usable (s : State) (bs : List Byte) : (s.setSr bs).usable = s.usable := usable_congr (by simp) (by simp)
@[simp] theorem State.anySr_usable (s : State) : (s.anySr).usable = s.usable := usable_congr (by simp) (by simp)
@[simp] theorem State.readT0_usable (s : State) : (s.readT0).usable = s.usable := usable_congr (by simp) (by simp)
@[simp] theorem State.setRdata_usable (s : State) (bs : List Byte) : (s.setRdata bs).usable = s.usable := usable_congr (by simp) (by simp)
@[simp] theorem State.startClear_usable (s : State) : (s.startClear).usable = s.usable := usable_congr (by simp) (by simp)
@[simp] theorem State.bumpIdx_usable (s : State) : (s.bumpIdx).usable = s.usable := usable_congr (by simp) (by simp)
@[simp] theorem State.dropRequest_usable (s : State) : (s.dropRequest).usable = s.usable := usable_congr (by simp) (by simp)
@[simp] theorem State.accept_usable (s : State) (o : OpSel) (a n : Word) (p : Phase) : (s.accept o a n p).usable = s.usable := usable_congr (by simp) (by simp)
@[simp] theorem State.answer_usable (s : State) (m : MicroAnswer) : (s.answer m).usable = s.usable := usable_congr (by simp) (by simp)

/-- WRITE transmits `LEN` bytes (log 10). -/
@[simp] theorem State.writeBytes_length (s : State) : s.writeBytes.length = s.len.toNat := by
  simp only [State.writeBytes, List.length_append, List.length_take, freeBytes_length]; omega

/-- What the host presented, when it has the length it must have (10_state.md R32). -/
theorem State.writeBytes_of_length {s : State} (h : s.wdata.length = s.len.toNat) : s.writeBytes = s.wdata := by
  simp [State.writeBytes, ← h, freeBytes]

theorem State.writeEnv_of_length {s : State} (h : s.wdata.length = s.len.toNat) : s.writeEnv = s.env := by
  simp [State.writeEnv, h, Env.skip]

@[simp] theorem State.writeEnv_history (s : State) : s.writeEnv.history = s.env.history := rfl
@[simp] theorem State.writeEnv_chip (s : State) : s.writeEnv.chip = s.env.chip := rfl
@[simp] theorem State.writeEnv_script (s : State) : s.writeEnv.script = s.env.script := rfl

/-- BOUNDS (42_framing_and_bounds.md R156). -/
theorem boundsOk_iff {size a n : Word} : boundsOk size a n = true ↔ a.toNat + n.toNat ≤ size.toNat := by
  simp only [boundsOk, decide_eq_true_eq]

/-- The timeout condition (41_wel_handshake.md R134). -/
theorem timedOut_iff {t t0 : Word} : timedOut hw t t0 = true ↔ 1000 < (t - t0).toNat := by
  simp only [timedOut, decide_eq_true_eq]; rfl

end Sys2Proof.Machine
end

