-- ==== Sys2Proof/Laws/PerInstr.lean ====
section
/-! SUPPORT. The form of every instruction's encoding (spec/30_encoding.md R80, R81, R90; spec/opcode_table.json),
one lemma per constructor. -/

namespace Sys2Proof.Laws.EncodingForm

/-- A wire command is a frame of 1, 4 or 5 bytes that begins with an opcode of the map; a host operation is a
request word; a micro-operation has no encoding. -/
def Statement (i : Instr) : Prop :=
  match i.space with
  | .wire => ∃ b rest, encode i = some (.wire (b :: rest)) ∧ knownOpcode b = true ∧
      (rest.length = 0 ∨ rest.length = 3 ∨ rest.length = 4)
  | .host => ∃ (op : BitVec 3) (addr len : Word), encode i = some (.host (reqWord op addr len))
  | .micro => encode i = none

theorem wRdsr : Statement .wRdsr := ⟨_, [], rfl, by decide, .inl rfl⟩
theorem wWren : Statement .wWren := ⟨_, [], rfl, by decide, .inl rfl⟩
theorem wRdid : Statement .wRdid := ⟨_, [], rfl, by decide, .inl rfl⟩
theorem wWriteW3 (a : BitVec 24) : Statement (.wWriteW3 a) := ⟨_, _, rfl, by decide, .inr (.inl rfl)⟩
theorem wWriteW4 (a : BitVec 32) : Statement (.wWriteW4 a) := ⟨_, _, rfl, by decide, .inr (.inr rfl)⟩
theorem wReadW3 (a : BitVec 24) : Statement (.wReadW3 a) := ⟨_, _, rfl, by decide, .inr (.inl rfl)⟩
theorem wReadW4 (a : BitVec 32) : Statement (.wReadW4 a) := ⟨_, _, rfl, by decide, .inr (.inr rfl)⟩
theorem wWrsr : Statement .wWrsr := ⟨_, [], rfl, by decide, .inl rfl⟩
theorem init (addr len : Word) : Statement (.init addr len) := ⟨_, _, _, rfl⟩
theorem read (addr len : Word) : Statement (.read addr len) := ⟨_, _, _, rfl⟩
theorem write (addr len : Word) : Statement (.write addr len) := ⟨_, _, _, rfl⟩
theorem clear (addr len : Word) : Statement (.clear addr len) := ⟨_, _, _, rfl⟩
theorem erase (addr len : Word) : Statement (.erase addr len) := ⟨_, _, _, rfl⟩
theorem reservedOp0 (addr len : Word) : Statement (.reservedOp0 addr len) := ⟨_, _, _, rfl⟩
theorem reservedOp6 (addr len : Word) : Statement (.reservedOp6 addr len) := ⟨_, _, _, rfl⟩
theorem reservedOp7 (addr len : Word) : Statement (.reservedOp7 addr len) := ⟨_, _, _, rfl⟩
theorem findDensity (d : BitVec 5) : Statement (.findDensity d) := rfl
theorem idDecode : Statement .idDecode := rfl
theorem aw (d : BitVec 5) : Statement (.aw d) := rfl
theorem getId : Statement .getId := rfl
theorem getWel : Statement .getWel := rfl
theorem setWel : Statement .setWel := rfl
theorem frame (opc : Byte) (a : Word) : Statement (.frame opc a) := rfl
theorem bounds (size a n : Word) : Statement (.bounds size a n) := rfl

end Sys2Proof.Laws.EncodingForm
end

