-- ==== Sys2Proof/Laws/Step.lean ====
section
/-! SUPPORT. What a step can do, said once, and how runs compose. -/

namespace Sys2Proof.Machine

open Config (hw)

/-! ### Runs -/

theorem run_next {k : Nat} {s u : State} (h : step s = .next u) : Host.Core.run core (k+1) s = Host.Core.run core k u := by
  have h' : core.step s = .next u := h
  have e := Host.Core.run.eq_2 core s k
  rw [h'] at e
  exact e

theorem run_refused {k : Nat} {s : State} {r} (h : step s = .refused r) : Host.Core.run core (k+1) s = .refused r := by
  have h' : core.step s = .refused r := h
  have e := Host.Core.run.eq_2 core s k
  rw [h'] at e
  exact e

theorem run_fault {k : Nat} {s : State} {r} (h : step s = .fault r) : Host.Core.run core (k+1) s = .fault r := by
  have h' : core.step s = .fault r := h
  have e := Host.Core.run.eq_2 core s k
  rw [h'] at e
  exact e

theorem Steps.zero (s : State) : Steps 0 s s := rfl

theorem Steps.cons {k : Nat} {s u t : State} (h : step s = .next u) (hr : Steps k u t) : Steps (k + 1) s t :=
  (run_next h).trans hr

theorem Steps.one {s t : State} (h : step s = .next t) : Steps 1 s t := .cons h (.zero t)

theorem Steps.uncons {k : Nat} {s t : State} (h : Steps (k + 1) s t) : ∃ u, step s = .next u ∧ Steps k u t := by
  unfold Steps at h
  cases hs : step s with
  | next v => exact ⟨v, rfl, (run_next hs).symm.trans h⟩
  | fault r => rw [run_fault hs] at h; cases h
  | refused r => rw [run_refused hs] at h; cases h

theorem Steps.append {j k : Nat} {s u t : State} (h : Steps j s u) (hr : Steps k u t) : Steps (j + k) s t := by
  induction j generalizing s with
  | zero =>
    have : s = u := by injection h
    rw [Nat.zero_add, this]; exact hr
  | succ j ih =>
    obtain ⟨v, hs, h⟩ := h.uncons
    rw [Nat.add_right_comm]; exact .cons hs (ih h)

theorem Reaches.refl (s : State) : Reaches s s := ⟨0, .zero s⟩
theorem Reaches.cons {s u t : State} (h : step s = .next u) (hr : Reaches u t) : Reaches s t :=
  let ⟨k, hk⟩ := hr; ⟨k + 1, .cons h hk⟩
theorem Reaches.trans {s u t : State} (h : Reaches s u) (hr : Reaches u t) : Reaches s t :=
  let ⟨j, hj⟩ := h; let ⟨k, hk⟩ := hr; ⟨j + k, hj.append hk⟩

/-- What holds of a state and is kept by every step holds of every state reached from it. -/
theorem Reaches.induct {P : State → Prop} (hstep : ∀ a b, P a → step a = .next b → P b) {s t : State} (hs : P s)
    (h : Reaches s t) : P t := by
  obtain ⟨k, hk⟩ := h
  induction k generalizing s with
  | zero =>
    have e : s = t := by injection hk
    exact e ▸ hs
  | succ k ih =>
    obtain ⟨u, hu, hk⟩ := hk.uncons
    exact ih (hstep s u hs hu) hk

/-! ### The machine of this hardware's configuration (00_scope.md R7) -/

@[simp] theorem execAt_hw : execAt hw = exec := by funext i s; cases i <;> rfl

@[simp] theorem stepAt_hw : stepAt hw = step := by funext s; simp [stepAt, step]

/-! ### The step of each kind of phase -/

theorem dropRequest_of_none {s : State} (h : s.request = none) : s.dropRequest = s := by
  cases s; simp [State.dropRequest] at *; exact h.symm

theorem stepWith_reset {s : State} {c : Config.Cfg} {ex : Meaning} (h : s.resetLine = true) :
    stepWith s c ex = .next s.applyReset := by simp [stepWith, h]

theorem stepWith_idle {s : State} {c : Config.Cfg} {ex : Meaning} (h : s.resetLine = false) (hi : s.seq = .idle) :
    stepWith s c ex = stepIdle s ex := by simp [stepWith, h, hi]

theorem stepWith_busy {s : State} {c : Config.Cfg} {ex : Meaning} (h : s.resetLine = false) (hb : s.seq ≠ .idle) :
    stepWith s c ex = stepBusy s.dropRequest c ex := by simp [stepWith, h, hb]

theorem step_reset {s : State} (h : s.resetLine = true) : step s = .next s.applyReset := stepWith_reset h

theorem step_idle {s : State} (h : s.resetLine = false) (hi : s.seq = .idle) : step s = stepIdle s := stepWith_idle h hi

theorem step_busy {s : State} (h : s.resetLine = false) (hb : s.seq ≠ .idle) : step s = stepBusy s.dropRequest :=
  stepWith_busy h hb

/-- A phase with a row of its own performs that row. -/
theorem step_row {s t : State} (h : s.resetLine = false) (hb : s.seq ≠ .idle)
    (hr : phaseRow s.dropRequest = some t) : step s = .next t := by
  rw [step_busy h hb, stepBusy, hr]

theorem phaseRow_none {s : State} (h : s.command ≠ none) : phaseRow s = none := by
  unfold State.command at h
  unfold phaseRow
  split at h <;> simp_all

/-- A command phase runs the command its frame encodes. -/
theorem step_command {s : State} {bs : List Byte} {i : Instr} (h : s.resetLine = false)
    (hc : s.command = some bs) (hd : decodeFrame bs = .instr i) : step s = exec i s.dropRequest := by
  have hb : s.seq ≠ .idle := fun e => by simp [State.command, e] at hc
  have hc' : s.dropRequest.command = some bs := hc
  rw [step_busy h hb, stepBusy, phaseRow_none (by rw [hc']; simp), stepCommand, hc']
  show runFrame bs s.dropRequest = _
  simp [runFrame, hd]

theorem step_iTx {s : State} (h : s.resetLine = false) (hp : s.seq = .iTx) : step s = execWRdid s.dropRequest :=
  step_command (bs := [hw.opcRdid]) (i := .wRdid) h (by simp [State.command, hp]) rfl
theorem step_wTx {s : State} (h : s.resetLine = false) (hp : s.seq = .wTx) : step s = execWWren s.dropRequest :=
  step_command (bs := [hw.opcWren]) (i := .wWren) h (by simp [State.command, hp]) rfl
theorem step_pTx {s : State} (h : s.resetLine = false) (hp : s.seq = .pTx) : step s = execWRdsr s.dropRequest :=
  step_command (bs := [hw.opcRdsr]) (i := .wRdsr) h (by simp [State.command, hp]) rfl

/-- The data command of WRITE, CLEAR and ERASE. -/
theorem step_dCmd_write {s : State} {bs : List Byte} (h : s.resetLine = false) (hp : s.seq = .dCmd)
    (ho : s.op = .write ∨ s.op = .clear ∨ s.op = .erase) (hf : frame hw s.idr hw.opcWrite s.addr = some bs) :
    step s = transmitWrite bs s.dropRequest := by
  have hc : s.command = some bs := by
    rcases ho with e | e | e <;> simp [State.command, hp, e, OpSel.opcode, hf]
  rcases frame_cases hf with ⟨-, rfl⟩ | ⟨-, rfl⟩
  · rw [step_command h hc (decodeFrame_writeW3 _)]; rfl
  · rw [step_command h hc (decodeFrame_writeW4 _)]; rfl

/-- The data command of READ. -/
theorem step_dCmd_read {s : State} {bs : List Byte} (h : s.resetLine = false) (hp : s.seq = .dCmd)
    (ho : s.op = .read) (hf : frame hw s.idr hw.opcRead s.addr = some bs) :
    step s = transmitRead bs s.dropRequest := by
  have hc : s.command = some bs := by simp [State.command, hp, ho, OpSel.opcode, hf]
  rcases frame_cases hf with ⟨-, rfl⟩ | ⟨-, rfl⟩
  · rw [step_command h hc (decodeFrame_readW3 _)]; rfl
  · rw [step_command h hc (decodeFrame_readW4 _)]; rfl

/-- Without an operation that has a data command, or without a width, D_CMD is refused. -/
theorem step_dCmd_none {s : State} (h : s.resetLine = false) (hp : s.seq = .dCmd) (hc : s.command = none) :
    step s = .refused .noCommand := by
  have hb : s.seq ≠ .idle := by simp [hp]
  have hc' : s.dropRequest.command = none := hc
  rw [step_busy h hb, stepBusy, stepCommand, hc']
  simp [phaseRow, hp]

/-! ### Accepting a request -/

/-- What taking a request changes: the port, and the write data that came with it. -/
theorem takeRequest_eq {s u : State} {r : Request} (h : s.takeRequest = some (r, u)) :
    u = { s with request := none, program := u.program, wdata := r.wdata } := by
  unfold State.takeRequest at h
  split at h
  · simp at h; simp [← h.2, ← h.1]
  · rename_i hn
    split at h
    · simp at h
    · simp at h; simp [← h.2, ← h.1, hn]

/-- What an accepted request does: INIT starts, or a data operation starts on a usable state. -/
theorem exec_request_cases {q : BitVec 67} {u t : State} (hi : u.seq = .idle) (h : exec (decodeReq q) u = .next t) :
    (∃ a n, t = u.accept .init a n .iSel) ∨
    (∃ o a n, t = u.accept o a n .dChk ∧ o.isData = true ∧ u.usable = true ∧ (o = .erase → a = 0#32 ∧ n = u.size)) := by
  simp only [decodeReq] at h
  have data : ∀ o a n, o.isData = true → (o = .erase → a = 0#32 ∧ n = u.size) → u.acceptData o a n = .next t →
      (∃ o a n, t = u.accept o a n .dChk ∧ o.isData = true ∧ u.usable = true ∧
        (o = .erase → a = 0#32 ∧ n = u.size)) := by
    intro o a n ho he hk
    simp only [State.acceptData, hi, if_true] at hk
    split at hk
    · rename_i hu; exact ⟨o, a, n, by simpa using hk.symm, ho, hu, he⟩
    · simp at hk
  split at h
  · simp [exec, execReservedOp0] at h
  split at h
  · simp only [exec, execInit, hi, if_true] at h; exact .inl ⟨_, _, by simpa using h.symm⟩
  split at h
  · exact .inr (data _ _ _ rfl (by simp) h)
  split at h
  · exact .inr (data _ _ _ rfl (by simp) h)
  split at h
  · exact .inr (data _ _ _ rfl (by simp) h)
  split at h
  · exact .inr (data .erase _ _ rfl (fun _ => ⟨rfl, rfl⟩) h)
  split at h
  · simp [exec, execReservedOp6] at h
  · simp [exec, execReservedOp7] at h

/-- A write frame's transmit, whichever operation sent it. -/
theorem transmitWrite_cases {bs : List Byte} {s t : State} (h : transmitWrite bs s = .next t) :
    (s.op = .write ∧ t = s.onAck (s.env.transmit bs) (State.goto .dWr) (State.raise .spiError)) ∨
    ((s.op = .clear ∨ s.op = .erase) ∧
      t = s.onAck (s.env.transmit bs) State.startClear (State.raise .spiError)) := by
  unfold transmitWrite transmitCommand at h
  cases ho : s.op <;> simp [ho] at h
  · exact .inl ⟨rfl, h.symm⟩
  · exact .inr ⟨.inl rfl, h.symm⟩
  · exact .inr ⟨.inr rfl, h.symm⟩

/-- A read frame's transmit. -/
theorem transmitRead_cases {bs : List Byte} {s t : State} (h : transmitRead bs s = .next t) :
    s.op = .read ∧ t = s.onAck (s.env.transmit bs) (State.goto .dRd) (State.raise .spiError) := by
  unfold transmitRead transmitCommand at h
  cases ho : s.op <;> simp [ho] at h
  exact ⟨rfl, h.symm⟩

/-- The two edges of an ok-or-fail call. -/
theorem onAck_cases (s : State) (call : Bool × Env) (good bad : State → State) :
    (call.1 = true ∧ s.onAck call good bad = good (s.setEnv call.2)) ∨
    (call.1 = false ∧ s.onAck call good bad = bad (s.setEnv call.2)) := by
  unfold State.onAck
  cases call.1 <;> simp

/-! ### The inversion of a step -/

/-- Everything a step that is not a reset can do when it answers next: wait, accept a request, perform the row of
its phase, or transmit the command of its phase. -/
inductive StepCase (s t : State) : Prop where
  | wait (hi : s.seq = .idle) (ht : t = s)
  | acceptInit (u : State) (a n : Word) (hi : s.seq = .idle)
      (hu : u = { s with request := none, program := u.program, wdata := u.wdata }) (ht : t = u.accept .init a n .iSel)
  | acceptData (u : State) (o : OpSel) (a n : Word) (hi : s.seq = .idle)
      (hu : u = { s with request := none, program := u.program, wdata := u.wdata }) (ht : t = u.accept o a n .dChk)
      (ho : o.isData = true) (hs : s.usable = true) (he : o = .erase → a = 0#32 ∧ n = s.size)
  | row (hb : s.seq ≠ .idle) (hr : phaseRow s.dropRequest = some t)
  | readId (hp : s.seq = .iTx)
      (ht : t = s.dropRequest.onAck (s.env.transmit [0x9F#8]) (State.goto .iRx) (State.raise .spiError))
  | writeEnable (hp : s.seq = .wTx)
      (ht : t = s.dropRequest.onAck (s.env.transmit [0x06#8]) (State.goto .wDes) (State.raise .spiError))
  | readStatus (hp : s.seq = .pTx)
      (ht : t = s.dropRequest.onAck (s.env.transmit [0x05#8]) (State.goto .pRx) (State.goto .pTime))
  | writeCommand (bs : List Byte) (hp : s.seq = .dCmd) (ho : s.op = .write)
      (hf : frame hw s.idr 0x02#8 s.addr = some bs)
      (ht : t = s.dropRequest.onAck (s.env.transmit bs) (State.goto .dWr) (State.raise .spiError))
  | clearCommand (bs : List Byte) (hp : s.seq = .dCmd) (ho : s.op = .clear ∨ s.op = .erase)
      (hf : frame hw s.idr 0x02#8 s.addr = some bs)
      (ht : t = s.dropRequest.onAck (s.env.transmit bs) State.startClear (State.raise .spiError))
  | readCommand (bs : List Byte) (hp : s.seq = .dCmd) (ho : s.op = .read)
      (hf : frame hw s.idr 0x03#8 s.addr = some bs)
      (ht : t = s.dropRequest.onAck (s.env.transmit bs) (State.goto .dRd) (State.raise .spiError))

theorem step_cases {s t : State} (h : s.resetLine = false) (hs : step s = .next t) : StepCase s t := by
  by_cases hi : s.seq = .idle
  · rw [step_idle h hi, stepIdle] at hs
    cases hr : s.takeRequest with
    | none => rw [hr] at hs; exact .wait hi (by simpa using hs.symm)
    | some p =>
      obtain ⟨r, u⟩ := p
      rw [hr] at hs
      have hu := takeRequest_eq hr
      have hu' : u = { s with request := none, program := u.program, wdata := u.wdata } := by rw [hu]
      rcases exec_request_cases (by rw [hu]; exact hi) hs with ⟨a, n, ht⟩ | ⟨o, a, n, ht, ho, hus, he⟩
      · exact .acceptInit u a n hi hu' ht
      · refine .acceptData u o a n hi hu' ht ho ?_ ?_
        · rw [hu] at hus; exact hus
        · rw [hu] at he; exact he
  · cases hr : phaseRow s.dropRequest with
    | some u => rw [step_row h hi hr] at hs; exact .row hi (by rw [hr]; simpa using hs)
    | none =>
      cases hp : s.seq with
      | iTx => rw [step_iTx h hp] at hs; cases hs; exact .readId hp rfl
      | wTx => rw [step_wTx h hp] at hs; cases hs; exact .writeEnable hp rfl
      | pTx => rw [step_pTx h hp] at hs; cases hs; exact .readStatus hp rfl
      | dCmd =>
        cases hc : s.command with
        | none => rw [step_dCmd_none h hp hc] at hs; simp at hs
        | some bs =>
          cases ho : s.op with
          | unset | init => simp [State.command, hp, ho, OpSel.opcode] at hc
          | read =>
            have hf : frame hw s.idr hw.opcRead s.addr = some bs := by
              simpa [State.command, hp, ho, OpSel.opcode] using hc
            rw [step_dCmd_read h hp ho hf] at hs
            exact .readCommand bs hp ho hf (transmitRead_cases hs).2
          | write | clear | erase =>
            have hf : frame hw s.idr hw.opcWrite s.addr = some bs := by
              simpa [State.command, hp, ho, OpSel.opcode] using hc
            rw [step_dCmd_write h hp (by simp [ho]) hf] at hs
            rcases transmitWrite_cases hs with ⟨h, e⟩ | ⟨h, e⟩
            · exact .writeCommand bs hp h hf e
            · exact .clearCommand bs hp h hf e
      | _ => simp [phaseRow, hp] at hr hi

end Sys2Proof.Machine
end

