-- ==== Sys2Proof/Laws/Sequence.lean ====
section
/-! SUPPORT. Chains of calls: the fail-fast rule, the calls of a chain, and the array over a chain. -/

namespace Sys2Proof.Machine

open Config (hw)

/-- After a step that failed nothing more is done (43_data_operations.md R175). -/
theorem andThen_fail {p : Result × State} (h : p.1 ≠ .ok) (k : State → Result × State) : andThen p k = p := by
  simp [andThen, h]

theorem andThen_ok {p : Result × State} (h : p.1 = .ok) (k : State → Result × State) : andThen p k = k p.2 := by
  simp [andThen, h]

@[simp] theorem andThen_mk_ok (s : State) (k : State → Result × State) : andThen (.ok, s) k = k s := rfl
@[simp] theorem andThen_mk_csError (s : State) (k : State → Result × State) :
    andThen (.csError, s) k = (.csError, s) := rfl
@[simp] theorem andThen_mk_spiError (s : State) (k : State → Result × State) :
    andThen (.spiError, s) k = (.spiError, s) := rfl

/-- A chain ends Ok only when both parts did. -/
theorem andThen_eq_ok {p : Result × State} {k : State → Result × State} :
    (andThen p k).1 = .ok ↔ p.1 = .ok ∧ (k p.2).1 = .ok := by
  by_cases h : p.1 = .ok
  · simp [andThen_ok h, h]
  · simp [andThen_fail h, h]

/-- What `callCs` can do. -/
theorem callCs_cases (call : Env → Bool × Env) (s : State) :
    ((call s.env).1 = true ∧ callCs call s = (.ok, s.setEnv (call s.env).2)) ∨
    ((call s.env).1 = false ∧ callCs call s = (.csError, s.setEnv (call s.env).2)) := by
  unfold callCs; cases (call s.env).1 <;> simp

/-- What `callTx` can do. -/
theorem callTx_cases (bs : List Byte) (s : State) :
    ((s.env.transmit bs).1 = true ∧ callTx bs s = (.ok, s.setEnv (s.env.transmit bs).2)) ∨
    ((s.env.transmit bs).1 = false ∧ callTx bs s = (.spiError, s.setEnv (s.env.transmit bs).2)) := by
  unfold callTx; cases (s.env.transmit bs).1 <;> simp

/-- What `callRx` can do. -/
theorem callRx_cases (n : Nat) (store : List Byte → State → State) (spoil : State → State) (s : State) :
    (∃ bs, (s.env.receive n).1 = some bs ∧ bs.length = n ∧
      callRx n store spoil s = (.ok, store bs (s.setEnv (s.env.receive n).2))) ∨
    ((s.env.receive n).1 = none ∧ callRx n store spoil s = (.spiError, spoil (s.setEnv (s.env.receive n).2))) := by
  unfold callRx
  cases h : (s.env.receive n).1 with
  | none => exact .inr ⟨rfl, rfl⟩
  | some bs => exact .inl ⟨bs, rfl, Env.receive_length _ h, rfl⟩

/-! ### The calls of a chain -/

theorem Called.nil (s : State) : Called s s [] := rfl

theorem Called.append {s t u : State} {cs ds : List Call} (h : Called s t cs) (k : Called t u ds) :
    Called s u (cs ++ ds) := by
  unfold Called at *; rw [k, h]; simp

theorem Called.of_cons {s t : State} {c : Call} (h : t.env.history = c :: s.env.history) : Called s t [c] := h

/-! ### The array over a chain -/

theorem SameMemory.of_keepsArray {s t : State} (h : s.env.KeepsArray t.env) : SameMemory s t := by
  intro a b hb
  unfold State.memRead at *
  cases hc : t.env.chip with
  | none => simp [hc] at hb
  | some d =>
    obtain ⟨c, h1, h2, h3⟩ := h d hc
    simp [hc, h1, h2, h3] at hb ⊢; exact hb

theorem SameMemory.trans {s t u : State} (h : SameMemory s t) (k : SameMemory t u) : SameMemory s u :=
  fun a b hb => h a b (k a b hb)

/-- The four calls of a poll store nothing: one command frame, no data (41_wel_handshake.md R131, 20_memory.md R58). -/
theorem statusExchange_keepsArray (s : State) : s.env.KeepsArray (statusExchange s).2.env := by
  unfold statusExchange
  rcases callCs_cases Env.select s with ⟨h1, e1⟩ | ⟨-, e1⟩
  · have k1 := Env.select_transmit_keepsArray s.env h1 (frameBytes .wRdsr)
    rw [e1, andThen_mk_ok]
    rcases callTx_cases (frameBytes .wRdsr) (s.setEnv s.env.select.2) with ⟨-, e2⟩ | ⟨-, e2⟩
    · rw [e2, andThen_mk_ok]
      have k2 := k1.trans (Env.receive_keepsArray _ hw.srLen)
      rcases callRx_cases hw.srLen State.setSr State.anySr
        ((s.setEnv s.env.select.2).setEnv ((s.setEnv s.env.select.2).env.transmit (frameBytes .wRdsr)).2) with
        ⟨bs, -, -, e3⟩ | ⟨-, e3⟩
      · rw [e3, andThen_mk_ok]
        exact k2.trans (Env.deselect_keepsArray _)
      · rw [e3, andThen_mk_spiError]
        exact k2
    · rw [e2, andThen_mk_spiError, andThen_mk_spiError]
      exact k1
  · rw [e1, andThen_mk_csError, andThen_mk_csError, andThen_mk_csError]
    exact s.env.select_keepsArray

end Sys2Proof.Machine
end

