-- ==== Sys2Proof/Tests/Slice0.lean ====
section
/-! SUPPORT. Tests on fixed values: expected results are from spec/95_test_vectors.md (named beside each test) and
from the encodings of spec/30_encoding.md, written out by hand; and, for every statement with hypotheses, a
state and operands that meet them all. -/

namespace Sys2Proof.Tests

open Sys2Proof.Machine
open Config (hw)

/-! ### Helpers -/

/-- A 256 Kb part after INIT: `IDR = 04 7F 05 09`, `SIZE = 32768` (95_test_vectors.md section 2.9). -/
def part : State := { State.reset with idr := ⟨0x04#8, 0x7F#8, 0x05#8, 0x09#8⟩, size := 32768#32 }

/-- A 1 Mb part after INIT: `IDR = 04 7F 27 03`, `SIZE = 131072`. -/
def bigPart : State := { State.reset with idr := ⟨0x04#8, 0x7F#8, 0x27#8, 0x03#8⟩, size := 131072#32 }

/-- Fix the answers of the next transport calls. -/
def scripted (rs : List Reply) (s : State) : State := { s with env := { s.env with script := rs } }

/-- Run an operation in a phase, with its latches. -/
def running (op : OpSel) (p : Phase) (a n : Word) (s : State) : State :=
  { s with op := op, seq := p, addr := a, len := n }

/-- Attach a responder with every byte 0xFF, and give its latch, chip-select, command and pointer. -/
def attached (latch cs : Bool) (cmd : Option Byte) (ptr : Nat) (s : State) : State :=
  let c : Chip :=
    { mem := ⟨0xFF#8, []⟩, latch := latch, cs := cs, cmd := cmd, ptr := ptr, pending := .reads 0, clock := [0#32],
      idBytes := s.idr, cap := s.size.toNat, width := (addressWidth hw (density hw s.idr)).getD 0, lag := .reads 0 }
  { s with env := { s.env with chip := some c } }

/-- A part on its responder, idle. -/
def responding (s : State) : State := attached false false none 0 s

/-- A part on a responder whose first `n` status reads answer clear, with a clock. -/
def lagging (n : Nat) (clock : List Word) (s : State) : State :=
  let c : Chip :=
    { mem := ⟨0xFF#8, []⟩, latch := false, cs := false, cmd := none, ptr := 0, pending := .reads 0, clock := clock,
      idBytes := s.idr, cap := s.size.toNat, width := (addressWidth hw (density hw s.idr)).getD 0, lag := .reads n }
  { s with env := { s.env with chip := some c } }

/-- The state an outcome leads to. -/
def after : Host.Outcome State Fault Refusal → Option State
  | .next t => some t
  | .fault _ => none
  | .refused _ => none

/-- The refusal of an outcome. -/
def refusal : Host.Outcome State Fault Refusal → Option Refusal
  | .next _ => none
  | .fault _ => none
  | .refused r => some r

theorem next_of_after {o : Host.Outcome State Fault Refusal} {t : State} (h : after o = some t) : o = .next t := by
  cases o <;> simp [after] at h
  rw [h]

/-! ### Well-formedness: for each check a term it refuses -/

theorem test_wf_frame_opcode : (Instr.frame 0x05#8 0#32).wf = false ∧ (Instr.frame 0x03#8 0#32).wf = true := by decide
theorem test_wf_request_reserved :
    (⟨reqWord 0#3 0#32 0#32, []⟩ : Request).wf = false ∧ (⟨reqWord 6#3 0#32 0#32, []⟩ : Request).wf = false ∧
    (⟨reqWord 7#3 0#32 0#32, []⟩ : Request).wf = false := by decide
theorem test_wf_request_write_length :
    (⟨reqWord 3#3 0#32 2#32, [0xAB#8]⟩ : Request).wf = false ∧
    (⟨reqWord 3#3 0#32 1#32, [0xAB#8]⟩ : Request).wf = true := by decide
theorem test_wf_table :
    admissibleTable (Config.densityTable.take 8) = false ∧
    admissibleTable ((0x03#5, 2048#32) :: Config.densityTable.tail) = false ∧
    admissibleTable ((0x01#5, 4096#32) :: Config.densityTable.tail) = false ∧
    admissibleTable Config.densityTable = true := by decide
theorem test_wf_configuration :
    admissible hw = true ∧ admissible { hw with welBit := 8 } = false ∧ admissible { hw with idLen := 3 } = false ∧
    admissible { hw with idLayout := ⟨0, 2, 4⟩ } = false ∧ admissible { hw with awLimit := 65535#32 } = false ∧
    admissible { hw with idLayout := ⟨2, 2, 0⟩ } = false ∧ admissible { hw with opcRead := 0x02#8 } = false ∧
    admissible { hw with srLen := 2 } = false ∧ admissible { hw with xlen := 20 } = false ∧
    admissible { hw with xlen := 33 } = false ∧ admissible { hw with awSmall := 0 } = false ∧
    admissible { hw with awSmall := 4 } = false ∧ admissible { hw with awLarge := 3 } = false ∧
    admissible { hw with awLarge := 5 } = false ∧ admissible { hw with densityTable := [] } = false ∧
    admissible legacy = true := by decide
/-- An address that a two-byte field would drop. -/
theorem test_wf_address_field :
    (Instr.wReadW3 0x010000#24).wf { hw with awSmall := 2 } = false ∧
    (Instr.wReadW3 0x00FFFF#24).wf { hw with awSmall := 2 } = true ∧ (Instr.wReadW3 0xFFFFFF#24).wf = true ∧
    (Instr.wWriteW4 0x01000000#32).wf { hw with awLarge := 3 } = false := by decide

/-! ### Decoding: words written out from spec/30_encoding.md and spec/opcode_table.json -/

theorem test_decode_one_byte :
    decodeTableWord 8 0x05 = some .wRdsr ∧ decodeTableWord 8 0x06 = some .wWren ∧
    decodeTableWord 8 0x9F = some .wRdid ∧ decodeTableWord 8 0x01 = some .wWrsr := by decide
theorem test_decode_addressed :
    decodeTableWord 32 0x02001234 = some (.wWriteW3 0x001234#24) ∧
    decodeTableWord 32 0x0300FFFE = some (.wReadW3 0x00FFFE#24) ∧
    decodeTableWord 40 0x0200012345 = some (.wWriteW4 0x00012345#32) ∧
    decodeTableWord 40 0x03AABBCCDD = some (.wReadW4 0xAABBCCDD#32) := by decide
/-- The request words of 95_test_vectors.md section 3, and the reserved selectors of R92. -/
theorem test_decode_requests :
    decodeTableWord 72 0x10000000000000000 = some (.init 0#32 0#32) ∧
    decodeTableWord 72 0x20001234500000002 = some (.read 0x00012345#32 2#32) ∧
    decodeTableWord 72 0x30001234500000002 = some (.write 0x00012345#32 2#32) ∧
    decodeTableWord 72 0x4000007FE00000002 = some (.clear 0x7FE#32 2#32) ∧
    decodeTableWord 72 0x50000000000000000 = some (.erase 0#32 0#32) ∧
    decodeTableWord 72 0x00000000000000000 = some (.reservedOp0 0#32 0#32) ∧
    decodeTableWord 72 0x60000000100000002 = some (.reservedOp6 1#32 2#32) ∧
    decodeTableWord 72 0x7FFFFFFFFFFFFFFFF = some (.reservedOp7 0xFFFFFFFF#32 0xFFFFFFFF#32) := by decide
theorem test_decode_rejected :
    decodeFrame [] = .rejected .emptyFrame ∧ decodeFrame [0x0B#8] = .rejected (.unknownOpcode 0x0B#8) ∧
    decodeFrame [0x02#8] = .rejected (.frameLength 0x02#8 1) ∧
    decodeFrame [0x05#8, 0x00#8] = .rejected (.frameLength 0x05#8 2) ∧ decodeTableWord 8 0x04 = none ∧
    decodeTableWord 72 0x80000000000000000 = none := by decide

/-! ### The micro-operations (95_test_vectors.md sections 2.1 to 2.8) -/

/-- T6, T11, T3, T12 -/
theorem test_findDensity :
    findDensity hw 0x05#5 = some 32768#32 ∧ findDensity hw 0x0A#5 = some 1048576#32 ∧
    findDensity hw 0x02#5 = none ∧ findDensity hw 0x0B#5 = none := by decide
/-- ID2, ID6 -/
theorem test_idDecode :
    (after (exec .idDecode bigPart)).map (·.micro) = some (.fields 0x04#8 0x07#5) ∧
    (after (exec .idDecode { part with idr := ⟨0x05#8, 0x04#8, 0x04#8, 0x04#8⟩ })).map (·.micro) =
      some (.fields 0x05#8 0x04#5) := by decide
/-- A5, A6, T1 -/
theorem test_aw : addressWidth hw 0x06#5 = some 3 ∧ addressWidth hw 0x07#5 = some 4 ∧ addressWidth hw 0x00#5 = none := by
  decide
/-- GI5, GI4: the identification is kept although the deselect fails. -/
theorem test_getId :
    (after (exec .getId (scripted [.ok, .ok, .bytes [0x04#8, 0x7F#8, 0x05#8, 0x09#8], .fail] State.reset))).map
      (fun t => (t.micro, t.idr)) = some (.status .csError, ⟨0x04#8, 0x7F#8, 0x05#8, 0x09#8⟩) := by decide
/-- GW3, GW8 -/
theorem test_getWel :
    (after (exec .getWel (scripted [.ok, .ok, .bytes [0xFD#8], .ok] State.reset))).map (fun t => (t.micro, t.sr)) =
      some (.wel false, 0xFD#8) ∧
    (after (exec .getWel (scripted [.ok, .ok, .bytes [0x02#8], .fail] State.reset))).map (fun t => (t.micro, t.sr)) =
      some (.wel false, 0x02#8) := by decide
/-- SW6: four polls cut short are swallowed, the fifth is SET; 22 calls. -/
theorem test_setWel_swallows :
    (after (exec .setWel (scripted
      [.time 0#32, .ok, .ok, .ok, .fail, .time 10#32, .ok, .fail, .time 20#32, .ok, .ok, .fail, .time 30#32,
       .ok, .ok, .bytes [0x02#8], .fail, .time 40#32, .ok, .ok, .bytes [0x02#8], .ok] State.reset))).map
      (fun t => (t.micro, t.env.history.length)) = some (.status .ok, 22) := by decide
/-- SW4: the counter wraps; 1000 is not a timeout, 1001 is; 14 calls. -/
theorem test_setWel_wraps :
    (after (exec .setWel (scripted
      [.time 0xFFFFFF00#32, .ok, .ok, .ok, .ok, .ok, .bytes [0x00#8], .ok, .time 744#32, .ok, .ok, .bytes [0x00#8], .ok,
       .time 745#32] State.reset))).map (fun t => (t.micro, t.env.history.length)) =
      some (.status .timeoutError, 14) := by decide
/-- P2, step 2: a responder that answers the first status read clear; 13 calls. -/
theorem test_setWel_lag :
    (after (exec .setWel (lagging 1 [100#32, 100#32] bigPart))).map
      (fun t => (t.micro, t.t0, t.sr, t.seq, t.env.history.length)) = some (.status .ok, 100#32, 0x02#8, .idle, 13) := by
  decide
/-- An execution that had not ended goes on: no second clock read into T0, no second write-enable. -/
theorem test_setWel_goes_on :
    (after (exec .setWel (scripted [.ok, .ok, .bytes [0x02#8], .ok] { part with micro := .polling, t0 := 7#32 }))).map
      (fun t => (t.micro, t.t0, t.env.history)) =
      some (.status .ok, 7#32, [.des true, .rx 1 (some [0x02#8]), .tx [0x05#8] true, .sel true]) := by decide
/-- F4, F6, F9 -/
theorem test_frame :
    frame hw part.idr 0x02#8 0x0000FFFF#32 = some [0x02#8, 0x00#8, 0xFF#8, 0xFF#8] ∧
    frame hw part.idr 0x03#8 0xAABBCCDD#32 = some [0x03#8, 0xBB#8, 0xCC#8, 0xDD#8] ∧
    frame hw bigPart.idr 0x03#8 0xAABBCCDD#32 = some [0x03#8, 0xAA#8, 0xBB#8, 0xCC#8, 0xDD#8] := by decide
/-- F3, F8, F9 in the legacy column -/
theorem test_frame_legacy :
    frame { hw with frameMode := .legacy } part.idr 0x02#8 0x00000100#32 = some [0x02#8, 0x00#8, 0x00#8, 0x00#8] ∧
    frame { hw with frameMode := .legacy } bigPart.idr 0x03#8 0xAABBCCDD#32 =
      some [0x03#8, 0x00#8, 0x00#8, 0x00#8, 0xDD#8] := by decide
/-- R150's example and F9 in the legacy column, as the legacy machine's D_CMD transmits them (70_reset_and_hazards.md R251). -/
theorem test_legacy_machine :
    (after (stepAt legacy (scripted [.ok] (running .write .dCmd 0x00001234#32 1#32 part)))).map
      (fun t => (t.seq, t.env.history)) = some (.dWr, [.tx [0x02#8, 0x00#8, 0x00#8, 0x34#8] true]) ∧
    (after (stepAt legacy (scripted [.ok] (running .read .dCmd 0xAABBCCDD#32 1#32 bigPart)))).map
      (fun t => (t.seq, t.env.history)) = some (.dRd, [.tx [0x03#8, 0x00#8, 0x00#8, 0x00#8, 0xDD#8] true]) := by decide
/-- No literal is baked in: other opcodes, other field lengths, another density code and WEL bit (00_scope.md R7). -/
theorem test_configured_machine :
    decodeFrame [0x0A#8, 0x12#8, 0x34#8] { hw with opcRead := 0x0A#8, awSmall := 2 } = .instr (.wReadW3 0x1234#24) ∧
    encode (.wReadW3 0x1234#24) { hw with opcRead := 0x0A#8, awSmall := 2 } = some (.wire [0x0A#8, 0x12#8, 0x34#8]) ∧
    (after (stepAt { hw with opcWren := 0x66#8 } (scripted [.ok] (running .write .wTx 0#32 1#32 part)))).map
      (·.env.history) = some [.tx [0x66#8] true] ∧
    (after (stepAt { hw with welBit := 7 } (scripted [.ok] { running .write .pDes 0#32 1#32 part with sr := 0x80#8 }))).map
      (·.seq) = some .dSel ∧
    (after (stepAt { hw with xlen := 24 } (scripted [.time 0x01000005#32] (running .write .wT0 0#32 1#32 part)))).map
      (·.t0) = some 5#32 ∧
    addressWidth hw (codeOfWidth hw 3) = some 3 ∧ addressWidth hw (codeOfWidth hw 4) = some 4 ∧
    idrWith hw 0x07#5 = ⟨0x04#8, 0x00#8, 0x07#8, 0x00#8⟩ := by decide
/-- B5, B6, B9, B11, B12 -/
theorem test_bounds :
    boundsOk 32768#32 32767#32 2#32 = false ∧ boundsOk 32768#32 32768#32 0#32 = true ∧
    boundsOk 32768#32 0xFFFFFFFF#32 1#32 = false ∧ idiomAccepts 32768#32 0xFFFFFFFF#32 0x8001#32 = true ∧
    idiomAccepts 32768#32 0xFFFFFFFF#32 0xFFFFFFFF#32 = false := by decide

/-! ### The wire commands: one step of the phase that issues them -/

theorem test_wRdsr : (after (step (scripted [.fail] (running .write .pTx 0#32 1#32 part)))).map
    (fun t => (t.seq, t.env.history)) = some (.pTime, [.tx [0x05#8] false]) := by decide
/-- W10 -/
theorem test_wWren : (after (step (scripted [.fail] (running .write .wTx 0#32 1#32 part)))).map
    (fun t => (t.seq, t.result, t.env.history)) = some (.idle, .spiError, [.tx [0x06#8] false]) := by decide
/-- GI2 -/
theorem test_wRdid : (after (step (scripted [.fail] (running .init .iTx 0#32 0#32 State.reset)))).map
    (fun t => (t.seq, t.result, t.env.history)) = some (.idle, .spiError, [.tx [0x9F#8] false]) := by decide
/-- W8 -/
theorem test_wWriteW3 : (after (step (scripted [.ok] (running .write .dCmd 0x1234#32 3#32 part)))).map
    (fun t => (t.seq, t.env.history)) = some (.dWr, [.tx [0x02#8, 0x00#8, 0x12#8, 0x34#8] true]) := by decide
/-- P2, step 2 -/
theorem test_wWriteW4 : (after (step (scripted [.ok] (running .clear .dCmd 0x12345#32 2#32 bigPart)))).map
    (fun t => (t.seq, t.env.history)) = some (.dClr, [.tx [0x02#8, 0x00#8, 0x01#8, 0x23#8, 0x45#8] true]) := by decide
/-- R1 -/
theorem test_wReadW3 : (after (step (scripted [.ok] (running .read .dCmd 0x7FFE#32 2#32 part)))).map
    (fun t => (t.seq, t.env.history)) = some (.dRd, [.tx [0x03#8, 0x00#8, 0x7F#8, 0xFE#8] true]) := by decide
/-- P2, step 3 -/
theorem test_wReadW4 : (after (step (scripted [.ok] (running .read .dCmd 0x12345#32 2#32 bigPart)))).map
    (fun t => (t.seq, t.env.history)) = some (.dRd, [.tx [0x03#8, 0x00#8, 0x01#8, 0x23#8, 0x45#8] true]) := by decide
theorem test_wWrsr : refusal (exec .wWrsr part) = some .writeStatusNeverIssued := by decide

/-! ### The host operations: acceptance, and the step that decides each vector -/

/-- IN9: the density decides before the manufacturer, SIZE is kept. -/
theorem test_init_unknown :
    (after (step (running .init .iDec 0#32 0#32 { part with idr := ⟨0xC2#8, 0x7F#8, 0x1F#8, 0#8⟩ }))).map
      (fun t => (t.result, t.size, t.usable)) = some (.unknownDensity, 32768#32, false) := by decide
/-- IN1 -/
theorem test_init_ok :
    (after (step (running .init .iDec 0#32 0#32 { part with size := 0#32 }))).map
      (fun t => (t.result, t.size, t.usable)) = some (.ok, 32768#32, true) := by decide
/-- R3: the deselect fails, the bytes are not the host's to use. -/
theorem test_read_deselect_fails :
    (after (step (scripted [.fail] (running .read .dDes 0x7FFE#32 2#32 { part with rdata := .bytes [0x11#8, 0x22#8] })))).map
      (fun t => (t.result, t.rdata)) = some (.csError, .any 0 2) := by decide
/-- R1 -/
theorem test_read_data :
    (after (step (scripted [.bytes [0x11#8, 0x22#8]] (running .read .dRd 0x7FFE#32 2#32 part)))).map
      (fun t => (t.seq, t.rdata)) = some (.dDes, .bytes [0x11#8, 0x22#8]) := by decide
/-- W2: no call. -/
theorem test_write_bounds :
    (after (step (running .write .dChk 32768#32 1#32 part))).map (fun t => (t.result, t.env.history)) =
      some (.addressError, []) := by decide
/-- P1, step 2: the byte reaches the array. -/
theorem test_write_stores :
    (after (step (attached true true (some 0x02#8) 0 (running .write .dWr 0#32 1#32 { part with wdata := [0xAB#8] })))).map
      (fun t => (t.memRead 0, t.memRead 1)) = some (some 0xAB#8, some 0xFF#8) := by decide
/-- P2, step 2: the bytes the host presents are held as presented, from the port and from the list. -/
theorem test_write_data_taken :
    (after (step { bigPart with request := some (Line.write 0x12345#32 [0xDE#8, 0xAD#8]).request })).map
      (fun t => (t.op, t.len, t.wdata, t.request)) = some (.write, 2#32, [0xDE#8, 0xAD#8], none) ∧
    (after (step { bigPart with program := [(Line.write 0x12345#32 [0xDE#8, 0xAD#8]).request, Line.erase.request] })).map
      (fun t => (t.wdata, t.program)) = some ([0xDE#8, 0xAD#8], [Line.erase.request]) := by decide
/-- C2: the second byte fails, IDX stays 1, no deselect. -/
theorem test_clear_fails :
    (after (step (scripted [.fail] (running .clear .dClr 0x10#32 3#32 { part with idx := 1#32 })))).map
      (fun t => (t.result, t.idx, t.env.history)) = some (.spiError, 1#32, [.tx [0x00#8] false]) := by decide
/-- C3: nothing is sent for `LEN = 0`. -/
theorem test_clear_zero :
    (after (step (running .clear .dClr 0x10#32 0#32 part))).map (fun t => (t.seq, t.env.history)) = some (.dDes, []) := by
  decide
/-- E1: the substitution; E3: refused at reset. -/
theorem test_erase :
    (after (exec (.erase 5#32 6#32) part)).map (fun t => (t.addr, t.len, t.seq)) = some (0#32, 32768#32, .dChk) ∧
    refusal (exec (.erase 0#32 0#32) State.reset) = some .notUsable := by decide
theorem test_reserved :
    refusal (exec (.reservedOp0 0#32 0#32) part) = some (.reservedSelector 0#3) ∧
    refusal (exec (.reservedOp6 0#32 0#32) part) = some (.reservedSelector 6#3) ∧
    refusal (exec (.reservedOp7 0#32 0#32) part) = some (.reservedSelector 7#3) := by decide

/-! ### The next step runs the word that was placed -/

theorem test_place_wire :
    (after (step ((scripted [.ok] State.reset).withFetchWord 40 0x0300012345))).map (fun t => (t.seq, t.env.history)) =
      some (.dRd, [.tx [0x03#8, 0x00#8, 0x01#8, 0x23#8, 0x45#8] true]) := by decide
theorem test_place_request :
    (after (step (State.reset.withFetchWord 72 0x10000000500000006))).map (fun t => (t.op, t.addr, t.len, t.seq)) =
      some (.init, 5#32, 6#32, .iSel) ∧
    refusal (step (State.reset.withFetchWord 72 0x20000000000000000)) = some .notUsable := by decide

/-! ### Witnesses: for every statement with hypotheses, values that meet them all, clause by clause -/

/-- The clauses of `State.Inv` but the array's, all decidable. -/
abbrev Fits (s : State) : Prop :=
  legalSize s.size ∧ (s.seq.isInit = true → s.op = .init) ∧
  (s.seq.isData = true → s.op.isData = true ∧ s.usable = true) ∧
  (s.seq.isChecked = true → s.addr.toNat + s.len.toNat ≤ s.size.toNat) ∧
  (s.seq.isData = true → s.op = .erase → s.addr = 0#32 ∧ s.len = s.size) ∧
  (s.seq = .dWr → s.op = .write) ∧ (s.seq = .dRd → s.op = .read) ∧
  (s.seq = .dClr → (s.op = .clear ∨ s.op = .erase) ∧ s.idx.toNat ≤ s.len.toNat) ∧
  (s.seq.inBracket = true → s.line = some true) ∧ (s.seq = .iDec → s.line = some false)

theorem inv_of_fits {s : State} (hc : s.env.chip = none) (h : Fits s) : s.Inv :=
  ⟨fun c hk => (by rw [hc] at hk; cases hk), h.1, h.2.1, h.2.2.1, h.2.2.2.1, h.2.2.2.2.1, h.2.2.2.2.2.1,
    h.2.2.2.2.2.2.1, h.2.2.2.2.2.2.2.1, h.2.2.2.2.2.2.2.2.1, h.2.2.2.2.2.2.2.2.2⟩

/-- A state inside a bracket: the last call was a select answered ok. -/
def selected (s : State) : State := { s with env := { s.env with history := [Call.sel true] } }

/-- A state after a bracket: the last call was a deselect answered ok. -/
def released (s : State) : State := { s with env := { s.env with history := [Call.des true] } }

/-- The host's request at the port. -/
def requesting (op : BitVec 3) (a n : Word) (s : State) : State := { s with request := some ⟨reqWord op a n, []⟩ }

theorem witness_DecodeOfEncode :
    (Instr.wReadW4 0xFFFFFFFF#32).wf = true ∧
    encode (.wReadW4 0xFFFFFFFF#32) = some (.wire [0x03#8, 0xFF#8, 0xFF#8, 0xFF#8, 0xFF#8]) ∧
    (Instr.erase 1#32 2#32).wf = true ∧ encode (.erase 1#32 2#32) = some (.host 0x50000000100000002#67) ∧
    admissible { hw with awSmall := 2, opcRead := 0x0A#8 } = true ∧
    (Instr.wReadW3 0xFFFF#24).wf { hw with awSmall := 2, opcRead := 0x0A#8 } = true ∧
    encode (.wReadW3 0xFFFF#24) { hw with awSmall := 2, opcRead := 0x0A#8 } = some (.wire [0x0A#8, 0xFF#8, 0xFF#8]) := by
  decide
theorem witness_EncodeOfDecode :
    decodeFrame [0x02#8, 0x00#8, 0x12#8, 0x34#8] = .instr (.wWriteW3 0x1234#24) ∧ knownOpcode 0xFF#8 = false := by decide
theorem witness_HostLinesAreRequests :
    Line.init.wf = true ∧ (Line.read 0#32 0#32).wf = true ∧ (Line.write 0#32 []).wf = true ∧
    (Line.write 5#32 [0xAB#8]).wf = true ∧ (Line.clear 0#32 1#32).wf = true ∧ Line.erase.wf = true := by decide
theorem witness_ReservedSelectorsRefused :
    (requesting 0#3 1#32 2#32 part).seq = .idle ∧ (requesting 0#3 1#32 2#32 part).resetLine = false ∧
    (⟨reqWord 0#3 1#32 2#32, []⟩ : Request).selector = 0#3 ∧ (⟨reqWord 6#3 1#32 2#32, []⟩ : Request).selector = 6#3 ∧
    (⟨reqWord 7#3 1#32 2#32, []⟩ : Request).selector = 7#3 := by decide
theorem witness_OnlyFiveOpcodesIssued :
    (∃ t, step (scripted [.ok] (running .init .iTx 0#32 0#32 part)) = .next t) ∧
    (∃ t, step (scripted [.ok] (running .read .wTx 0#32 0#32 part)) = .next t) ∧
    (∃ t, step (scripted [.fail] (running .read .pTx 0#32 0#32 part)) = .next t) ∧
    ∃ t, step (scripted [.ok] (running .erase .dCmd 0#32 32768#32 part)) = .next t :=
  ⟨⟨_, rfl⟩, ⟨_, rfl⟩, ⟨_, rfl⟩, ⟨_, rfl⟩⟩
theorem witness_AddressedCommands :
    (running .write .dCmd 0#32 0#32 part).op = .write ∧ (running .clear .dCmd 0#32 0#32 part).op = .clear ∧
    (running .erase .dCmd 0#32 0#32 part).op = .erase ∧ (running .read .dCmd 0#32 0#32 part).op = .read := by decide
/-- Both cases: the byte stays (a closed bracket), and the byte is stored (a write bracket left open). -/
theorem witness_WireCommandMemoryFrame :
    (∃ t, exec .wRdsr (attached false true none 0 part) = .next t ∧ t.memRead 32767 = some 0xFF#8) ∧
    ∃ t, exec .wRdsr (attached true true (some 0x02#8) 32767 part) = .next t ∧ t.memRead 32767 = some 0x05#8 :=
  ⟨⟨_, rfl, by decide⟩, ⟨_, rfl, by decide⟩⟩
theorem witness_FindDensityResult :
    (hw.densityTable.map (·.1)).Nodup ∧ findDensity hw 0x0A#5 = some 1048576#32 ∧ findDensity hw 0x1F#5 = none := by decide
theorem witness_IgnoredIdBitsNeverMatter :
    (⟨0x04#8, 0x00#8, 0xE5#8, 0xFF#8⟩ : IdReg) ≠ part.idr ∧ (0x04#8 : Byte) = part.idr.b0 ∧
    (0xE5#8 : Byte).extractLsb' 0 5 = part.idr.b2.extractLsb' 0 5 ∧
    (∃ t, step (running .write .dCmd 0#32 1#32 part) = .next t) ∧
    step (requesting 7#3 0#32 0#32 part) = .refused (.reservedSelector 7#3) :=
  ⟨by decide, by decide, by decide, ⟨_, rfl⟩, rfl⟩
theorem witness_AddressWidthSelector :
    findDensity hw 0x06#5 = some 65536#32 ∧ (65536#32 : Word).toNat ≤ 65536 ∧
    findDensity hw 0x07#5 = some 131072#32 ∧ 65536 < (131072#32 : Word).toNat ∧ findDensity hw 0x0B#5 = none := by decide
theorem witness_SetWelFirstPollSet :
    part.micro ≠ .polling ∧ (0xFF#8 : Byte).getLsbD 1 = true ∧
    (scripted [.time 7#32, .ok, .ok, .ok, .ok, .ok, .bytes [0xFF#8], .ok, .fail] part).env.script =
      .time 7#32 :: .ok :: .ok :: .ok :: .ok :: .ok :: .bytes [0xFF#8] :: .ok :: [.fail] ∧
    ∃ c, (lagging 2 [7#32, 8#32, 1007#32, 9#32] part).env.chip = some c ∧ c.lag = .reads 2 ∧
      c.clock = 7#32 :: [8#32, 1007#32] ++ [9#32] ∧ ∀ x ∈ [8#32, 1007#32], (x - 7#32 : Word).toNat ≤ 1000 :=
  ⟨by decide, by decide, by decide, _, rfl, rfl, rfl, by simp⟩
/-- SW4's clock (elapsed 1000, then 1001, across the wrap), with a poll of every kind. -/
theorem witness_SetWelTimesOut :
    (∀ r ∈ [(⟨.select, 0xFFFFFF00#32⟩ : Round), ⟨.transmit, 0#32⟩, ⟨.receive, 1#32⟩, ⟨.deselect 0x02#8, 2#32⟩,
      ⟨.clear 0xFD#8, 744#32⟩], r.within 0xFFFFFF00#32) ∧ (⟨.clear 0x00#8, 745#32⟩ : Round).beyond 0xFFFFFF00#32 ∧
    (scripted [.time 0xFFFFFF00#32, .ok, .ok, .ok, .fail, .time 0#32, .ok, .ok, .bytes [0x00#8], .ok, .time 745#32, .own]
      part).env.script = .time 0xFFFFFF00#32 :: .ok :: .ok :: .ok ::
        ([(⟨.select, 0#32⟩ : Round)] ++ [(⟨.clear 0x00#8, 745#32⟩ : Round)]).flatMap Round.replies ++ [.own] ∧
    part.micro ≠ .polling ∧
    (scripted [.fail, .time 0#32, .ok, .fail, .time 745#32] { part with micro := .polling, t0 := 0xFFFFFF00#32 }).t0 =
      0xFFFFFF00#32 ∧
    (scripted [.fail, .time 0#32, .ok, .fail, .time 745#32] { part with micro := .polling, t0 := 0xFFFFFF00#32 }).env.script =
      ([(⟨.select, 0#32⟩ : Round)] ++ [(⟨.transmit, 745#32⟩ : Round)]).flatMap Round.replies ++ [] :=
  ⟨by simp [Round.within, ResetPoll.wf], by simp [Round.beyond, ResetPoll.wf], rfl, by decide, rfl, rfl⟩
theorem witness_ClockCheck :
    (running .read .pTime 0#32 0#32 part).resetLine = false ∧ (running .read .pTime 0#32 0#32 part).seq = .pTime ∧
    (scripted [.time 1000#32] part).env.now.1 = 1000#32 ∧ (scripted [.time 1001#32] part).env.now.1 = 1001#32 := by decide
theorem witness_HandshakeCanHang :
    (scripted [.fail, .time 0#32, .fail, .time 0#32, .ok] (running .read .pSel 0#32 0#32 part)).quiet ∧
    (scripted [.fail, .time 0#32, .fail, .time 0#32, .ok] (running .read .pSel 0#32 0#32 part)).env.script =
      (List.replicate 2 [Reply.fail, .time (running .read .pSel 0#32 0#32 part).t0]).flatten ++ [Reply.ok] :=
  ⟨⟨rfl, rfl⟩, rfl⟩
/-- A handshake whose next poll fails and whose clock then lies beyond: every state of its run keeps the promise. -/
def pollingPart : State := scripted [.fail, .time 1001#32] (running .read .pSel 0#32 0#32 part)

theorem pollingPart_clockPromise : pollingPart.clockPromise := ⟨0, by decide⟩

theorem pollingPart_keepsClockPromise : pollingPart.keepsClockPromise := by
  intro u hu hp
  have key := Reaches.induct (P := fun u => u = pollingPart ∨
      u.seq = .pTime ∧ u.resetLine = false ∧ u.request = none ∧ u.program = [] ∧ timedOut hw u.env.now.1 u.t0 = true ∨
      u.seq = .idle ∧ u.resetLine = false ∧ u.request = none ∧ u.program = []) (fun a b ha hs => by
    rcases ha with rfl | ⟨h1, h2, h3, h4, h5⟩ | ⟨h1, h2, h3, h4⟩
    · cases hs
      exact .inr (.inl ⟨rfl, rfl, rfl, rfl, by decide⟩)
    · rw [step_row (t := rowPTime a.dropRequest) h2 (by simp [h1]) (by simp [phaseRow, h1])] at hs
      cases hs
      exact .inr (.inr (by simp [rowPTime, h2, h4, h5]))
    · rw [step_idle h2 h1, stepIdle] at hs
      simp [State.takeRequest, h3, h4] at hs
      exact .inr (.inr (hs ▸ ⟨h1, h2, h3, h4⟩))) (.inl rfl) hu
  rcases key with rfl | ⟨h, -⟩ | ⟨h, -⟩
  · exact pollingPart_clockPromise
  · rw [h] at hp; cases hp
  · rw [h] at hp; cases hp

/-- For the clauses on the loop and on the clock's promise. -/
theorem witness_HandshakeEnds :
    pollingPart.quiet ∧ pollingPart.seq = .pSel ∧ pollingPart.clockPromise ∧ pollingPart.Inv ∧
    pollingPart.keepsClockPromise ∧
    (∀ n, n < 1 → (getWel ((scripted [.fail, .time 1000#32] part).afterRounds n)).1 = false ∧
      ((scripted [.fail, .time 1000#32] part).clockRead n - part.t0).toNat ≤ 1000) :=
  ⟨⟨rfl, rfl⟩, rfl, pollingPart_clockPromise, inv_of_fits rfl (by decide), pollingPart_keepsClockPromise, by decide⟩
theorem witness_PollFailuresAreSwallowed :
    (∃ t, step (scripted [.fail] (running .read .pSel 0#32 0#32 part)) = .next t ∧ t.env.history = [.sel false]) ∧
    (∃ t, step (scripted [.fail] (running .read .pTx 0#32 0#32 part)) = .next t ∧ t.env.history = [.tx [0x05#8] false]) ∧
    (∃ t, step (scripted [.fail] (running .read .pRx 0#32 0#32 part)) = .next t ∧ t.env.history = [.rx 1 none]) ∧
    ∃ t, step (scripted [.fail] (running .read .pDes 0#32 0#32 part)) = .next t ∧ t.env.history = [.des false] :=
  ⟨⟨_, rfl, rfl⟩, ⟨_, rfl, rfl⟩, ⟨_, rfl, rfl⟩, ⟨_, rfl, rfl⟩⟩
theorem witness_FrameBytes :
    addressWidth hw (density hw State.reset.idr) = none ∧ addressWidth hw (density hw part.idr) = some 3 ∧
    addressWidth hw (density hw bigPart.idr) = some 4 ∧ (255#32 : Word).toNat < 256 ∧
    (selected (running .clear .dCmd 32768#32 0#32 part)).Inv ∧ (selected (running .clear .dCmd 32768#32 0#32 part)).seq = .dCmd :=
  ⟨by decide, by decide, by decide, by decide, inv_of_fits rfl (by decide), rfl⟩
theorem witness_FrameCarriesWholeAddress :
    (running .write .dCmd 32768#32 0#32 part).usable = true ∧
    (running .write .dCmd 32768#32 0#32 part).addr.toNat + 0 ≤ part.size.toNat ∧
    (running .write .dCmd 131072#32 0#32 bigPart).usable = true ∧
    (running .write .dCmd 131072#32 0#32 bigPart).addr.toNat + 0 ≤ bigPart.size.toNat := by decide
theorem witness_BoundsDecision :
    (32767#32 : Word).toNat + (1#32 : Word).toNat ≤ (32768#32 : Word).toNat ∧
    (32768#32 : Word).toNat < (32767#32 : Word).toNat + (2#32 : Word).toNat ∧
    (running .read .dChk 32767#32 1#32 part).resetLine = false ∧ (running .read .dChk 32767#32 2#32 part).seq = .dChk := by
  decide
theorem witness_WraparoundIdiomBand :
    (0xFFFFFFFE#32 : Word).toNat + (1#32 : Word).toNat < 2 ^ 32 ∧
    2 ^ 32 ≤ (0xFFFFFFFF#32 : Word).toNat + (1#32 : Word).toNat := by decide
theorem witness_AddressErrorBeforeAnyCall :
    (∃ t, exec (.erase 1#32 2#32) part = .next t) ∧
    (running .read .dChk 32768#32 1#32 part).resetLine = false ∧ (running .read .dChk 32768#32 1#32 part).seq = .dChk ∧
    (running .read .dChk 32768#32 1#32 part).size.toNat < 32768 + 1 ∧
    (running .write .dChk 32768#32 1#32 part).op ≠ .read :=
  ⟨⟨_, rfl⟩, by decide, by decide, by decide, by decide⟩
theorem witness_RequestAcceptance :
    part.seq = .idle ∧ part.usable = true ∧ State.reset.seq = .idle ∧ State.reset.usable = false := by decide
theorem witness_BusyRequestHasNoEffect :
    (requesting 1#3 0#32 0#32 (running .write .wT0 0#32 1#32 part)).seq ≠ .idle ∧
    ∃ t, step (requesting 1#3 0#32 0#32 (running .write .wT0 0#32 1#32 part)) = .next t := ⟨by decide, ⟨_, rfl⟩⟩
theorem witness_StepRunsDecodedInstruction :
    (∃ t, (requesting 1#3 0#32 0#32 part).takeRequest = some (⟨reqWord 1#3 0#32 0#32, []⟩, t)) ∧
    { part with request := some ⟨reqWord 3#3 0#32 2#32, [0xDE#8, 0xAD#8]⟩ }.request =
      some ⟨reqWord 3#3 0#32 2#32, [0xDE#8, 0xAD#8]⟩ ∧
    { part with program := [⟨reqWord 1#3 0#32 0#32, []⟩, ⟨reqWord 2#3 0#32 1#32, []⟩] }.program =
      ⟨reqWord 1#3 0#32 0#32, []⟩ :: [⟨reqWord 2#3 0#32 1#32, []⟩] ∧
    (running .write .dCmd 0x1234#32 1#32 part).command = some [0x02#8, 0x00#8, 0x12#8, 0x34#8] ∧
    decodeFrame [0x02#8, 0x00#8, 0x12#8, 0x34#8] = .instr (.wWriteW3 0x1234#24) ∧
    part.request = none ∧ part.program = [] ∧ decodeTableWord 72 0x50000000000000000 = some (.erase 0#32 0#32) :=
  ⟨⟨_, rfl⟩, rfl, rfl, by decide, by decide, by decide, by decide, by decide⟩
theorem witness_InitRefinesPseudocode :
    (running .init .iSel 0#32 0#32 part).quiet ∧ (running .init .iSel 0#32 0#32 part).seq = .iSel := ⟨⟨rfl, rfl⟩, rfl⟩

/-- W1: the answers of a data operation, first poll SET; the last four are the data bracket's. -/
def answers (bracket : List Reply) : List Reply := handshakeReplies 0#32 0x02#8 ++ bracket

theorem witness_WriteRefinesPseudocode :
    (scripted (answers [.ok, .ok, .ok, .ok]) (running .write .dChk 0#32 1#32 { part with wdata := [0xAB#8] })).quiet ∧
    ∃ t, writeOperation 1
      (scripted (answers [.ok, .ok, .ok, .ok]) (running .write .dChk 0#32 1#32 { part with wdata := [0xAB#8] })) =
      some t ∧ t.result = .ok := ⟨⟨rfl, rfl⟩, ⟨_, rfl, by decide⟩⟩
theorem witness_ReadRefinesPseudocode :
    (scripted (answers [.ok, .ok, .fail]) (running .read .dChk 0x7FFE#32 2#32 part)).quiet ∧
    ∃ t, readOperation 1 (scripted (answers [.ok, .ok, .fail]) (running .read .dChk 0x7FFE#32 2#32 part)) = some t ∧
      t.result = .spiError := ⟨⟨rfl, rfl⟩, ⟨_, rfl, by decide⟩⟩
theorem witness_ClearRefinesPseudocode :
    (scripted (answers [.ok, .ok, .ok, .ok, .ok]) (running .clear .dChk 0x10#32 2#32 part)).quiet ∧
    ∃ t, clearOperation 1 (scripted (answers [.ok, .ok, .ok, .ok, .ok]) (running .clear .dChk 0x10#32 2#32 part)) =
      some t ∧ t.result = .ok ∧ t.idx = 2#32 := ⟨⟨rfl, rfl⟩, ⟨_, rfl, by decide, by decide⟩⟩
/-- The three answers of R203. -/
theorem witness_InitCompletes :
    (scripted [.ok, .ok, .bytes [0x04#8, 0x7F#8, 0x05#8, 0x09#8], .ok] State.reset).quiet ∧ State.reset.seq = .idle ∧
    (scripted [.ok, .ok, .bytes [0x04#8, 0x7F#8, 0x05#8, 0x09#8], .ok] State.reset).env.script =
      .ok :: .ok :: .bytes [0x04#8, 0x7F#8, 0x05#8, 0x09#8] :: .ok :: [] ∧
    findDensity hw ((0x05#8 : Byte).extractLsb' 0 5) = some 32768#32 ∧
    findDensity hw ((0x0B#8 : Byte).extractLsb' 0 5) = none ∧ (0xC2#8 : Byte) ≠ 0x04#8 :=
  ⟨⟨rfl, rfl⟩, rfl, rfl, by decide, by decide, by decide⟩
/-- The last byte of the array, and the empty range at its end. -/
theorem witness_WriteCompletes :
    (scripted (answers [.ok, .ok, .ok, .ok]) { part with wdata := [0xAB#8] }).quiet ∧
    part.seq = .idle ∧ part.usable = true ∧ (32767#32 : Word).toNat + (1#32 : Word).toNat ≤ part.size.toNat ∧
    (32768#32 : Word).toNat + (0#32 : Word).toNat ≤ part.size.toNat ∧ [0xAB#8].length = (1#32 : Word).toNat ∧
    (0x02#8 : Byte).getLsbD 1 = true ∧
    (scripted (answers [.ok, .ok, .ok, .ok]) { part with wdata := [0xAB#8] }).env.script =
      handshakeReplies 0#32 0x02#8 ++ [Reply.ok, .ok, .ok, .ok] ++ [] :=
  ⟨⟨rfl, rfl⟩, by decide, by decide, by decide, by decide, by decide, by decide, rfl⟩
theorem witness_ReadCompletes :
    (scripted (answers [.ok, .ok, .bytes [0x11#8, 0x22#8], .ok]) part).quiet ∧
    (0x7FFE#32 : Word).toNat + (2#32 : Word).toNat ≤ part.size.toNat ∧
    [0x11#8, 0x22#8].length = (2#32 : Word).toNat ∧
    (scripted (answers [.ok, .ok, .bytes [0x11#8, 0x22#8], .ok]) part).env.script =
      handshakeReplies 0#32 0x02#8 ++ [Reply.ok, .ok, .bytes [0x11#8, 0x22#8], .ok] ++ [] :=
  ⟨⟨rfl, rfl⟩, by decide, by decide, rfl⟩
theorem witness_ClearCompletes :
    (scripted (answers [.ok, .ok, .ok, .ok, .ok, .ok]) part).quiet ∧
    (0x7FFD#32 : Word).toNat + (3#32 : Word).toNat ≤ part.size.toNat ∧
    (scripted (answers [.ok, .ok, .ok, .ok, .ok, .ok]) part).env.script =
      handshakeReplies 0#32 0x02#8 ++ [Reply.ok, .ok] ++ List.replicate (3#32 : Word).toNat Reply.ok ++ [Reply.ok] ++ [] :=
  ⟨⟨rfl, rfl⟩, by decide, rfl⟩
theorem witness_EraseCompletes :
    (scripted (answers ([Reply.ok, .ok] ++ List.replicate part.size.toNat Reply.ok ++ [Reply.ok])) part).quiet ∧
    part.usable = true ∧
    (scripted (answers ([Reply.ok, .ok] ++ List.replicate part.size.toNat Reply.ok ++ [Reply.ok])) part).env.script =
      handshakeReplies 0#32 0x02#8 ++ [Reply.ok, .ok] ++ List.replicate part.size.toNat Reply.ok ++ [Reply.ok] ++ [] :=
  ⟨⟨rfl, rfl⟩, by decide, by simp [scripted, answers]⟩
/-- C2 -/
theorem witness_ClearFailsAtByte :
    (scripted [.ok, .fail] (running .clear .dClr 0x10#32 3#32 part)).quiet ∧
    (running .clear .dClr 0x10#32 3#32 part).op ≠ .read ∧ (running .clear .dClr 0x10#32 3#32 part).idx = 0#32 ∧
    1 < (3#32 : Word).toNat ∧ 2 < (3#32 : Word).toNat ∧
    (scripted [.ok, .fail] (running .clear .dClr 0x10#32 3#32 part)).env.script =
      List.replicate 1 Reply.ok ++ [Reply.fail] ++ [] :=
  ⟨⟨rfl, rfl⟩, by decide, by decide, by decide, by decide, by decide⟩
/-- WRITE and READ with the IDX a CLEAR of two bytes has left. -/
theorem witness_ZeroLengthDataPhase :
    (∃ t, step (scripted [.fail] (running .write .dWr 0#32 0#32 { part with idx := 2#32 })) = .next t) ∧
    (∃ t, step (scripted [.bytes []] (running .read .dRd 0#32 0#32 { part with idx := 2#32 })) = .next t ∧
      t.rdata = .bytes []) ∧
    ∃ t, step (running .clear .dClr 0#32 0#32 part) = .next t ∧ t.seq = .dDes :=
  ⟨⟨_, rfl⟩, ⟨_, rfl, by decide⟩, ⟨_, rfl, by decide⟩⟩
/-- For WriteStoresOnResponder, ReadLoadsFromResponder, ClearZeroesOnResponder and EraseTwiceOnResponder. -/
theorem witness_respondsWell :
    (∃ c, respondsWell (responding { part with wdata := [0xAB#8] }) c) ∧ (∃ c, respondsWell (responding bigPart) c) ∧
    (32767#32 : Word).toNat + (1#32 : Word).toNat ≤ part.size.toNat ∧ [0xAB#8].length = (1#32 : Word).toNat :=
  ⟨⟨_, ⟨rfl, rfl⟩, rfl, by decide, rfl, rfl, by decide, rfl, rfl, by decide⟩,
    ⟨_, ⟨rfl, rfl⟩, rfl, by decide, rfl, rfl, by decide, rfl, rfl, by decide⟩, by decide, by decide⟩
theorem witness_StepMemoryFrame :
    (∃ t, step (responding part) = .next t ∧ t.memRead 0 = some 0xFF#8) ∧
    ∃ t, step (attached true true (some 0x02#8) 32767 (running .clear .dClr 32767#32 1#32 part)) = .next t ∧
      t.memRead 32767 = some 0x00#8 := ⟨⟨_, rfl, by decide⟩, ⟨_, rfl, by decide⟩⟩
/-- For PhaseEdges, OneCallPerStep and RegisterWriters: a step that writes each register. -/
theorem witness_RegisterWriters :
    (∃ t, step (scripted [.bytes [1#8, 2#8, 3#8, 4#8]] (running .init .iRx 0#32 0#32 part)) = .next t ∧ t.idr ≠ part.idr) ∧
    (∃ t, step (scripted [.bytes [2#8]] (running .read .pRx 0#32 0#32 part)) = .next t ∧ t.sr ≠ part.sr) ∧
    (∃ t, step (scripted [.time 9#32] (running .read .wT0 0#32 0#32 part)) = .next t ∧ t.t0 ≠ part.t0) ∧
    (∃ t, step (scripted [.ok] (running .clear .dClr 0#32 2#32 part)) = .next t ∧ t.idx ≠ part.idx) ∧
    (∃ t, step (requesting 2#3 1#32 2#32 part) = .next t ∧ t.op ≠ part.op ∧ t.addr ≠ part.addr ∧ t.len ≠ part.len) ∧
    (∃ t, step (running .write .dChk 32768#32 1#32 part) = .next t ∧ t.result ≠ part.result) ∧
    (∃ t, step (scripted [.bytes [7#8]] (running .read .dRd 0#32 1#32 part)) = .next t ∧ t.rdata ≠ part.rdata) ∧
    ∃ t, step { part with request := some ⟨reqWord 3#3 0#32 1#32, [0xAB#8]⟩ } = .next t ∧ t.wdata ≠ part.wdata :=
  ⟨⟨_, rfl, by decide⟩, ⟨_, rfl, by decide⟩, ⟨_, rfl, by decide⟩, ⟨_, rfl, by decide⟩,
    ⟨_, rfl, by decide, by decide, by decide⟩, ⟨_, rfl, by decide⟩, ⟨_, rfl, by decide⟩, ⟨_, rfl, by decide⟩⟩
/-- IN1, IN4 -/
theorem witness_SizeWrittenOnlyByInit :
    (∃ t, step (running .init .iDec 0#32 0#32 { part with size := 0#32 }) = .next t ∧ t.size ≠ 0#32 ∧ t.result = .ok) ∧
    ∃ t, step (running .init .iDec 0#32 0#32 { part with idr := ⟨0xC2#8, 0x7F#8, 0x05#8, 0x09#8⟩ }) = .next t ∧
      t.result ≠ .ok := ⟨⟨_, rfl, by decide, by decide⟩, ⟨_, rfl, by decide⟩⟩
theorem witness_UsableComesFromInit :
    (∃ t, step (running .init .iDec 0#32 0#32 { part with size := 0#32 }) = .next t ∧ t.result = .ok) ∧
    (running .read .dChk 0#32 0#32 part).seq.isInit = false ∧
    ∃ t, step (scripted [.bytes [0x04#8, 0x7F#8, 0x05#8, 0x09#8]] (running .init .iRx 0#32 0#32
      { part with idr := ⟨0#8, 0#8, 0#8, 0#8⟩ })) = .next t ∧ t.usable = true :=
  ⟨⟨_, rfl, by decide⟩, by decide, ⟨_, rfl, by decide⟩⟩
/-- One state for each result of R210. -/
theorem witness_ErrorCauses :
    (∃ s t, s.Inv ∧ s.resetLine = false ∧ s.seq ≠ .idle ∧ step s = .next t ∧ t.seq = .idle ∧ t.result = .ok) ∧
    (∃ s t, s.Inv ∧ s.resetLine = false ∧ s.seq ≠ .idle ∧ step s = .next t ∧ t.seq = .idle ∧ t.result = .csError) ∧
    (∃ s t, s.Inv ∧ s.resetLine = false ∧ s.seq ≠ .idle ∧ step s = .next t ∧ t.seq = .idle ∧ t.result = .spiError) ∧
    (∃ s t, s.Inv ∧ s.resetLine = false ∧ s.seq ≠ .idle ∧ step s = .next t ∧ t.seq = .idle ∧ t.result = .unknownDensity) ∧
    (∃ s t, s.Inv ∧ s.resetLine = false ∧ s.seq ≠ .idle ∧ step s = .next t ∧ t.seq = .idle ∧
      t.result = .manufacturerIdError) ∧
    (∃ s t, s.Inv ∧ s.resetLine = false ∧ s.seq ≠ .idle ∧ step s = .next t ∧ t.seq = .idle ∧ t.result = .timeoutError) ∧
    ∃ s t, s.Inv ∧ s.resetLine = false ∧ s.seq ≠ .idle ∧ step s = .next t ∧ t.seq = .idle ∧ t.result = .addressError :=
  ⟨⟨scripted [.ok] (selected (running .write .dDes 0#32 1#32 part)), _, inv_of_fits rfl (by decide), rfl, by decide,
      rfl, by decide, by decide⟩,
    ⟨scripted [.fail] (selected (running .write .dDes 0#32 1#32 part)), _, inv_of_fits rfl (by decide), rfl, by decide,
      rfl, by decide, by decide⟩,
    ⟨scripted [.fail] (selected (running .read .dRd 0#32 1#32 part)), _, inv_of_fits rfl (by decide), rfl, by decide,
      rfl, by decide, by decide⟩,
    ⟨released (running .init .iDec 0#32 0#32 State.reset), _, inv_of_fits rfl (by decide), rfl, by decide, rfl, by decide, by decide⟩,
    ⟨released (running .init .iDec 0#32 0#32 { part with idr := ⟨0xC2#8, 0x7F#8, 0x05#8, 0x09#8⟩ }), _,
      inv_of_fits rfl (by decide), rfl, by decide, rfl, by decide, by decide⟩,
    ⟨scripted [.time 1001#32] (running .erase .pTime 0#32 32768#32 part), _, inv_of_fits rfl (by decide), rfl, by decide,
      rfl, by decide, by decide⟩,
    ⟨running .clear .dChk 0x7FFF#32 2#32 part, _, inv_of_fits rfl (by decide), rfl, by decide, rfl, by decide, by decide⟩⟩
/-- An abort with an array attached: the byte that was to be cleared stays. -/
theorem witness_AbortRestoresNothing :
    ∃ t, step (scripted [.fail] (attached true true (some 0x02#8) 5 (running .clear .dClr 5#32 1#32 part))) = .next t ∧
      t.seq = .idle ∧ t.result ≠ .ok ∧ t.memRead 5 = some 0xFF#8 := ⟨_, rfl, by decide, by decide, by decide⟩
/-- INIT's Ok, beside the endings of witness_ErrorCauses. -/
theorem witness_ChipSelectAfterAbort :
    (released (running .init .iDec 0#32 0#32 part)).Inv ∧
    ∃ t, step (released (running .init .iDec 0#32 0#32 part)) = .next t ∧ t.seq = .idle ∧ t.result = .ok :=
  ⟨inv_of_fits rfl (by decide), _, rfl, by decide, by decide⟩
/-- A state inside a data operation that meets the invariant, with an array attached. -/
theorem witness_InvariantKept : ∃ s t, s.Inv ∧ s.env.chip ≠ none ∧ step s = .next t ∧ t.seq = .dDes :=
  ⟨selected (attached true true (some 0x02#8) 0 (running .write .dWr 0#32 1#32 { part with wdata := [0xAB#8] })), _,
    ⟨fun c hc => by cases hc; decide, by decide, by decide, by decide, by decide, by decide, by decide, by decide,
      by decide, by decide, by decide⟩, by decide, rfl, by decide⟩
theorem witness_RunningOperationsNeverStop :
    (selected (running .read .dCmd 0#32 0#32 part)).Inv ∧ (selected (running .read .dCmd 0#32 0#32 part)).seq ≠ .idle ∧
    State.reset.Inv ∧ step (requesting 2#3 0#32 0#32 State.reset) = .refused .notUsable ∧
    (requesting 2#3 0#32 0#32 State.reset).Inv ∧
    step (requesting 6#3 0#32 0#32 State.reset) = .refused (.reservedSelector 6#3) :=
  ⟨inv_of_fits rfl (by decide), by decide, inv_of_fits rfl (by decide), rfl, inv_of_fits rfl (by decide), rfl⟩
theorem witness_ResetValues :
    { running .write .dWr 5#32 6#32 part with resetLine := true }.resetLine = true := by decide
theorem witness_HostReadsInIdle :
    part.seq = .idle ∧ part.hostRead .idr = (0x09057F04#32, part) ∧
    ({ part with result := .addressError } : State).hostRead .result = (6#32, { part with result := .addressError }) ∧
    (running .read .dRd 0#32 1#32 part).seq ≠ .idle ∧
    (running .read .dRd 0#32 1#32 part).hostRead .busy = (1#32, running .read .dRd 0#32 1#32 part) := by decide
/-- D_CMD on both widths, and a phase that is not D_CMD. -/
theorem witness_LegacyMachine :
    (running .read .dChk 0x1234#32 1#32 part).seq ≠ .dCmd ∧ (running .read .dCmd 0x1234#32 1#32 part).op.isData = true ∧
    (running .read .dCmd 0x1234#32 1#32 part).resetLine = false ∧
    addressWidth hw (density hw part.idr) = some 3 ∧ addressWidth hw (density hw bigPart.idr) = some 4 := by decide

end Sys2Proof.Tests
end

/-! O60: the machine of another configuration, here legacy frame mode (42_framing_and_bounds.md R150 to R152). -/

namespace Sys2Proof.Machine

open Config (Cfg hw)

/-! ### What the decoders answer -/

/-- A request word stands for a host operation (30_encoding.md R91, R92). -/
theorem decodeReq_space (req : BitVec 67) : (decodeReq req).space = .host := by
  simp only [decodeReq]
  split_ifs <;> rfl

theorem rejectFrame_ne_instr (b : Byte) (n : Nat) (c : Cfg) (i : Instr) : rejectFrame b n c ≠ .instr i := by
  unfold rejectFrame
  split <;> simp

/-- A frame stands for a wire command (30_encoding.md R85). -/
theorem decodeFrame_space {bs : List Byte} {c : Cfg} {i : Instr} (h : decodeFrame bs c = .instr i) :
    i.space = .wire := by
  unfold decodeFrame at h
  split at h
  case h_1 => simp at h
  all_goals
    split_ifs at h <;> simp only [rejectFrame_ne_instr, Decoded.instr.injEq] at h <;> subst h <;> rfl

/-! ### Legacy frame mode outside FRAME -/

/-- No wire command and no host operation reads the frame mode. -/
theorem execAt_legacy {i : Instr} (h : i.space ≠ .micro) : execAt legacy i = exec i := by
  cases i with
  | findDensity | idDecode | aw | getId | getWel | setWel | frame | bounds => exact absurd rfl h
  | _ => rfl

theorem phaseRow_legacy (s : State) : phaseRow s legacy = phaseRow s := rfl

theorem runFrame_legacy (bs : List Byte) (s : State) : runFrame bs s legacy (execAt legacy) = runFrame bs s := by
  have hd : decodeFrame bs legacy = decodeFrame bs := rfl
  unfold runFrame
  rw [hd]
  cases h : decodeFrame bs with
  | rejected why => rfl
  | instr i => simp [execAt_legacy (i := i) (by simp [decodeFrame_space h])]

theorem stepIdle_legacy (s : State) : stepIdle s (execAt legacy) = stepIdle s := by
  unfold stepIdle
  cases s.takeRequest with
  | none => rfl
  | some p => simp [execAt_legacy (i := decodeReq p.1.req) (by simp [decodeReq_space])]

/-- Only the data command's frame depends on the frame mode (42_framing_and_bounds.md R150). -/
theorem command_legacy {s : State} (h : s.seq ≠ .dCmd) : s.command legacy = s.command := by
  unfold State.command
  cases hp : s.seq with
  | dCmd => exact absurd hp h
  | _ => rfl

theorem stepBusy_legacy {s : State} (h : s.seq ≠ .dCmd) : stepBusy s legacy (execAt legacy) = stepBusy s := by
  simp only [stepBusy, stepCommand, phaseRow_legacy, command_legacy h, runFrame_legacy]

theorem stepAt_legacy {s : State} (h : s.seq ≠ .dCmd) : stepAt legacy s = step s := by
  have hd : s.dropRequest.seq ≠ .dCmd := h
  simp only [stepAt, step, stepWith, stepIdle_legacy, stepBusy_legacy hd]

/-! ### The data command -/

/-- Legacy mode frames the low byte of the address (42_framing_and_bounds.md R150, R151). -/
theorem frame_legacy (r : IdReg) (opc : Byte) (a : Word) : frame legacy r opc a = frame hw r opc (a &&& 0xFF#32) := rfl

theorem bigEndianValue_addressBytes_legacy {w : Nat} (h : 1 ≤ w) (a : Word) :
    bigEndianValue (addressBytes legacy w a) = a.toNat % 256 := by
  have hv : (frameValue legacy a).toNat = a.toNat % 256 := by
    have : (frameValue legacy a).toNat = a.toNat &&& (2 ^ 8 - 1) := BitVec.toNat_and ..
    rw [this, Nat.and_two_pow_sub_one_eq_mod]
  have hlt : a.toNat % 256 < 256 ^ w :=
    calc a.toNat % 256 < 256 ^ 1 := Nat.mod_lt _ (by decide)
      _ ≤ 256 ^ w := Nat.pow_le_pow_right (by decide) h
  rw [addressBytes_eq, bigEndianValue_bytes, hv, Nat.mod_eq_of_lt hlt]

theorem transmitWrite_eq_dataCommandEdge {s : State} (ho : s.op = .write ∨ s.op = .clear ∨ s.op = .erase)
    (bs : List Byte) :
    transmitWrite bs s = .next (dataCommandEdge bs s) := by
  cases s
  rcases ho with e | e | e <;> cases e <;> rfl

theorem transmitRead_eq_dataCommandEdge {s : State} (ho : s.op = .read) (bs : List Byte) :
    transmitRead bs s = .next (dataCommandEdge bs s) := by
  cases s
  cases ho
  rfl

/-- A frame of FRAME with the operation's opcode runs as that operation's data command, whatever address it carries. -/
theorem runFrame_frame {s : State} {r : IdReg} {opc : Byte} {a : Word} {bs : List Byte}
    (ho : s.op.opcode hw = some opc) (hf : frame hw r opc a = some bs) :
    runFrame bs s = .next (dataCommandEdge bs s) := by
  cases hop : s.op with
  | init | unset => simp [hop, OpSel.opcode] at ho
  | read =>
    obtain rfl : hw.opcRead = opc := by simpa [hop, OpSel.opcode] using ho
    rw [← transmitRead_eq_dataCommandEdge hop]
    rcases frame_cases hf with ⟨-, rfl⟩ | ⟨-, rfl⟩
    · rw [runFrame, decodeFrame_readW3]; rfl
    · rw [runFrame, decodeFrame_readW4]; rfl
  | write | clear | erase =>
    obtain rfl : hw.opcWrite = opc := by simpa [hop, OpSel.opcode] using ho
    rw [← transmitWrite_eq_dataCommandEdge (by simp [hop])]
    rcases frame_cases hf with ⟨-, rfl⟩ | ⟨-, rfl⟩
    · rw [runFrame, decodeFrame_writeW3]; rfl
    · rw [runFrame, decodeFrame_writeW4]; rfl

theorem exists_opcode_of_isData {o : OpSel} (h : o.isData = true) : ∃ opc, o.opcode hw = some opc := by
  cases o with
  | unset | init => simp [OpSel.isData] at h
  | read | write | clear | erase => exact ⟨_, rfl⟩

/-- The legacy machine's data command: the address bytes of legacy mode behind the opcode, and the row's edge. -/
theorem stepAt_legacy_dCmd {s : State} {opc : Byte} {w : Nat} (h : s.resetLine = false) (hp : s.seq = .dCmd)
    (ho : s.op.opcode hw = some opc) (haw : addressWidth hw (density hw s.idr) = some w) :
    stepAt legacy s = .next (dataCommandEdge (opc :: addressBytes legacy w s.addr) s.dropRequest) := by
  have hb : s.seq ≠ .idle := by simp [hp]
  have hf : frame legacy s.idr opc s.addr = some (opc :: addressBytes legacy w s.addr) :=
    congrArg (Option.map _) haw
  have hrow : phaseRow s.dropRequest legacy = none := by simp [phaseRow, hp]
  have hc : s.dropRequest.command legacy = some (opc :: addressBytes legacy w s.addr) := by
    have ho' : s.op.opcode legacy = some opc := ho
    simp [State.command, hp, ho', hf]
  rw [stepAt, stepWith_busy h hb, stepBusy, hrow, stepCommand, hc]
  calc runFrame (opc :: addressBytes legacy w s.addr) s.dropRequest legacy (execAt legacy)
    _ = runFrame (opc :: addressBytes legacy w s.addr) s.dropRequest := runFrame_legacy ..
    _ = .next (dataCommandEdge (opc :: addressBytes legacy w s.addr) s.dropRequest) :=
      runFrame_frame ho ((frame_legacy ..).symm.trans hf)

/-- Settles O60: legacy mode is read by FRAME alone, which only D_CMD uses. -/
theorem legacyMachine : Obligations.LegacyMachine := by
  unfold Obligations.LegacyMachine
  refine ⟨fun i s => by rw [execAt_hw], fun s => by rw [stepAt_hw], fun s => stepAt_legacy, ?_⟩
  intro s w h hp hd haw
  obtain ⟨opc, ho⟩ := exists_opcode_of_isData hd
  have hw1 : 1 ≤ w := by
    rcases addressWidth_cases (density hw s.idr) with e | e | e <;> simp [e] at haw <;> omega
  exact ⟨opc, addressBytes legacy w s.addr, ho, by simp [addressBytes], bigEndianValue_addressBytes_legacy hw1 _,
    stepAt_legacy_dCmd h hp ho haw⟩

end Sys2Proof.Machine

/-! A busy step as the call of its phase, a register write and a move of SEQ: said once, for O55, O47 to O50 and O29. -/

namespace Sys2Proof.Machine

open Config (hw)

/-! ### The call of a phase (10_state.md R30, action column) -/

/-- The steps that make no transport call: IDLE, I_DEC, D_CHK and the end of the clear loop (10_state.md R30). -/
abbrev State.silent (s : State) : Prop :=
  s.seq = .idle ∨ s.seq = .iDec ∨ s.seq = .dChk ∨ (s.seq = .dClr ∧ s.idx = s.len)

theorem callOf_not_silent {s : State} {c : Call} (h : callOf s c) : ¬ s.silent := by
  rintro (hp | hp | hp | ⟨hp, hi⟩) <;> simp only [callOf, hp] at h
  exact h.1 hi

/-- `e` is what stands behind the port once the phase of `s` has made its call, if it makes one. -/
inductive CallMade (s : State) (e : Env) : Prop where
  | none (hp : s.silent) (hh : e.history = s.env.history) (ha : s.env.ArrayWf → e.ArrayWf)
  | call (c : Call) (hc : callOf s c) (hh : e.history = c :: s.env.history) (ha : s.env.ArrayWf → e.ArrayWf)

namespace CallMade

variable {s : State} {e : Env}

theorem silent (h : s.silent) : CallMade s s.env := .none h rfl id

theorem skip (h : CallMade s e) (n : Nat) : CallMade s (e.skip n) := by
  cases h with
  | none hp hh ha => exact .none hp hh ha
  | call c hc hh ha => exact .call c hc hh ha

theorem select (h : s.seq = .iSel ∨ s.seq = .wSel ∨ s.seq = .pSel ∨ s.seq = .dSel) : CallMade s s.env.select.2 := by
  refine .call _ ?_ s.env.select_history s.env.select_keepsArray.arrayWf
  rcases h with hp | hp | hp | hp <;> simp [callOf, hp]

theorem deselect (h : s.seq = .iDes ∨ s.seq = .wDes ∨ s.seq = .pDes ∨ s.seq = .dDes) :
    CallMade s s.env.deselect.2 := by
  refine .call _ ?_ s.env.deselect_history s.env.deselect_keepsArray.arrayWf
  rcases h with hp | hp | hp | hp <;> simp [callOf, hp]

theorem transmit {bs : List Byte} (h : ∀ ok, callOf s (.tx bs ok)) : CallMade s (s.env.transmit bs).2 :=
  .call _ (h _) (s.env.transmit_history bs) (s.env.transmit_storesAtMost bs).arrayWf

theorem receive {n : Nat}
    (h : s.seq = .iRx ∧ n = 4 ∨ s.seq = .pRx ∧ n = 1 ∨ s.seq = .dRd ∧ n = s.len.toNat) :
    CallMade s (s.env.receive n).2 := by
  have hl : ∀ bs, (s.env.receive n).1 = some bs → bs.length = n := fun _ => s.env.receive_length
  refine .call (.rx n (s.env.receive n).1) ?_ (s.env.receive_history n) (s.env.receive_keepsArray n).arrayWf
  rcases h with ⟨hp, rfl⟩ | ⟨hp, rfl⟩ | ⟨hp, rfl⟩ <;> simp only [callOf, hp] <;> exact ⟨_, rfl, hl⟩

theorem now (h : s.seq = .wT0 ∨ s.seq = .pTime) : CallMade s s.env.now.2 := by
  refine .call _ ?_ s.env.now_history s.env.now_keepsArray.arrayWf
  rcases h with hp | hp <;> simp [callOf, hp]

theorem arrayWf (h : CallMade s e) : s.env.ArrayWf → e.ArrayWf := by
  cases h <;> assumption

/-- From one phase inside a bracket to another the chip-select line is not touched. -/
theorem line_of_inBracket {q : Phase} (h : CallMade s e) (hp : s.seq.inBracket = true) (he : q ∈ edges s.seq)
    (hq : q.inBracket = true) : lineAfter e.history = s.line := by
  cases h with
  | none _ hh => rw [hh]; rfl
  | call c hc hh =>
    rw [hh]
    cases c with
    | tx | rx | now => rfl
    | sel ok => cases hs : s.seq <;> simp [callOf, hs, Phase.inBracket] at hc hp
    | des ok =>
      have hd : s.seq = .iDes ∨ s.seq = .wDes ∨ s.seq = .pDes ∨ s.seq = .dDes := by
        cases hs : s.seq <;> simp [callOf, hs] at hc <;> simp
      have out : ∀ p ∈ edges s.seq, p.inBracket = false := by
        rcases hd with hd | hd | hd | hd <;> rw [hd] <;> decide
      simp [out q he] at hq

end CallMade

/-! ### The register a row writes (10_state.md R20, "Written by") -/

/-- What a row of the phase table writes before SEQ moves, SIZE excepted: at most one register, each in its own
phases (10_state.md R20, R30). -/
inductive RowWrites (s : State) : State → Prop where
  | none (e : Env) : RowWrites s (s.setEnv e)
  | idr (hp : s.seq = .iRx) (e : Env) (r : IdReg) : RowWrites s { s with idr := r, env := e }
  | sr (hp : s.seq = .pRx) (e : Env) (b : Byte) : RowWrites s { s with sr := b, env := e }
  | t0 (hp : s.seq = .wT0) (e : Env) (t : Word) : RowWrites s { s with t0 := t, env := e }
  | idx (hp : s.seq = .dCmd ∨ s.seq = .dClr) (e : Env) (i : Word) : RowWrites s { s with idx := i, env := e }
  | rdata (hp : s.seq = .dRd) (e : Env) (d : ReadData) : RowWrites s { s with rdata := d, env := e }

namespace RowWrites

variable {s u : State}

theorem size (h : RowWrites s u) : u.size = s.size := by cases h <;> rfl
theorem op (h : RowWrites s u) : u.op = s.op := by cases h <;> rfl
theorem addr (h : RowWrites s u) : u.addr = s.addr := by cases h <;> rfl
theorem len (h : RowWrites s u) : u.len = s.len := by cases h <;> rfl
theorem result (h : RowWrites s u) : u.result = s.result := by cases h <;> rfl
theorem wdata (h : RowWrites s u) : u.wdata = s.wdata := by cases h <;> rfl
theorem request (h : RowWrites s u) : u.request = s.request := by cases h <;> rfl
theorem program (h : RowWrites s u) : u.program = s.program := by cases h <;> rfl

theorem idr_eq (h : RowWrites s u) (hp : s.seq ≠ .iRx) : u.idr = s.idr := by
  cases h with
  | idr h => exact absurd h hp
  | _ => rfl

theorem sr_eq (h : RowWrites s u) (hp : s.seq ≠ .pRx) : u.sr = s.sr := by
  cases h with
  | sr h => exact absurd h hp
  | _ => rfl

theorem t0_eq (h : RowWrites s u) (hp : s.seq ≠ .wT0) : u.t0 = s.t0 := by
  cases h with
  | t0 h => exact absurd h hp
  | _ => rfl

theorem idx_eq (h : RowWrites s u) (hp : ¬ (s.seq = .dCmd ∨ s.seq = .dClr)) : u.idx = s.idx := by
  cases h with
  | idx h => exact absurd h hp
  | _ => rfl

theorem rdata_eq (h : RowWrites s u) (hp : s.seq ≠ .dRd) : u.rdata = s.rdata := by
  cases h with
  | rdata h => exact absurd h hp
  | _ => rfl

end RowWrites

/-! ### The edge SEQ takes -/

/-- What holds when the row of `s`, having written `u`, goes on to the phase `q`: the tests its edge rests on
(10_state.md R30). -/
structure Proceeds (s u : State) (q : Phase) : Prop where
  edge : q ∈ edges s.seq
  busy : q ≠ .idle
  /-- BOUNDS accepted -/
  bounds : s.seq = .dChk → boundsOk s.size s.addr s.len = true
  write : q = .dWr → s.op = .write
  read : q = .dRd → s.op = .read
  /-- the clear loop begins at 0 and is left when IDX has reached LEN (10_state.md R36) -/
  clear : q = .dClr → (s.op = .clear ∨ s.op = .erase) ∧ u.idx = 0#32 ∨
    s.seq = .dClr ∧ s.idx ≠ s.len ∧ u.idx = s.idx + 1#32
  /-- a bracket is entered by a select that was answered ok -/
  opened : q.inBracket = true → s.seq.inBracket = true ∨ u.line = some true
  /-- I_DEC is entered by a deselect that was answered ok -/
  released : q = .iDec → u.line = some false

/-- An edge of the table that rests on no test and no answer. -/
def freeEdge (p q : Phase) : Bool :=
  decide (q ∈ edges p) && decide (p ≠ .dChk) && decide (q ∉ [.idle, .dWr, .dRd, .dClr, .iDec]) &&
    (!q.inBracket || p.inBracket)

/-- Such an edge meets every condition. -/
theorem Proceeds.free {s u : State} {q : Phase} (h : freeEdge s.seq q = true) : Proceeds s u q := by
  simp only [freeEdge, Bool.and_eq_true, Bool.or_eq_true, decide_eq_true_eq, List.mem_cons, List.not_mem_nil, or_false,
    not_or] at h
  obtain ⟨⟨⟨he, hp⟩, hn, hw, hr, hc, hi⟩, hb⟩ := h
  exact ⟨he, hn, (absurd · hp), (absurd · hw), (absurd · hr), (absurd · hc),
    fun hq => .inl (hb.resolve_left (by simp [hq])), (absurd · hi)⟩

/-- A select that was answered ok opens its bracket. -/
theorem Proceeds.select {s : State} (hk : s.env.select.1 = true) {q : Phase}
    (h : (s.seq, q) ∈ [(.iSel, .iTx), (.wSel, .wTx), (.pSel, .pTx), (.dSel, .dCmd)]) :
    Proceeds s (s.setEnv s.env.select.2) q := by
  have hl : (s.setEnv s.env.select.2).line = some true := by simp [State.line, hk, lineAfter]
  simp only [List.mem_cons, Prod.mk.injEq, List.not_mem_nil, or_false] at h
  rcases h with ⟨hp, rfl⟩ | ⟨hp, rfl⟩ | ⟨hp, rfl⟩ | ⟨hp, rfl⟩ <;>
    exact ⟨by simp [hp, edges], nofun, by simp [hp], nofun, nofun, nofun, fun _ => .inr hl, nofun⟩

theorem Proceeds.release {s : State} (hk : s.env.deselect.1 = true) (hp : s.seq = .iDes) :
    Proceeds s (s.setEnv s.env.deselect.2) .iDec :=
  ⟨by simp [hp, edges], nofun, by simp [hp], nofun, nofun, nofun, nofun, fun _ => by simp [State.line, hk, lineAfter]⟩

/-! ### The inversion -/

/-- Everything a step can do while an operation runs, no request being presented: the call of its phase, at most one
register write, and then SEQ goes on, the operation is aborted, or it finishes Ok (10_state.md R30, 60_exceptions.md
R214, 44_init.md R200). -/
inductive BusyStep (s : State) : State → Prop where
  | goto {u : State} {q : Phase} (hc : CallMade s u.env) (hw : RowWrites s u) (hg : Proceeds s u q) :
    BusyStep s (u.goto q)
  | raise {u : State} {r : Result} (hc : CallMade s u.env) (hw : RowWrites s u) (he : .idle ∈ edges s.seq)
    (hr : r ≠ .ok) : BusyStep s (u.raise r)
  | finishOk {u : State} (hc : CallMade s u.env) (hw : RowWrites s u) (hp : s.seq = .dDes) : BusyStep s u.finishOk
  | identified {cap : Word} (hp : s.seq = .iDec) (hf : findDensity hw (density hw s.idr) = some cap) :
    BusyStep s ((s.setSize cap).finishOk)

namespace BusyStep

variable {s : State}

/-- A row made of an ok-or-fail call takes one of two edges. -/
theorem onAck {call : Bool × Env} {good bad : State → State}
    (hg : call.1 = true → BusyStep s (good (s.setEnv call.2)))
    (hb : call.1 = false → BusyStep s (bad (s.setEnv call.2))) : BusyStep s (s.onAck call good bad) := by
  rcases onAck_cases s call good bad with ⟨hk, ht⟩ | ⟨hk, ht⟩
  · rw [ht]; exact hg hk
  · rw [ht]; exact hb hk

theorem move {e : Env} {q : Phase} (hc : CallMade s e) (hg : Proceeds s (s.setEnv e) q) :
    BusyStep s ((s.setEnv e).goto q) := .goto hc (.none e) hg

theorem abort {e : Env} {r : Result} (hc : CallMade s e) (he : .idle ∈ edges s.seq) (hr : r ≠ .ok) :
    BusyStep s ((s.setEnv e).raise r) := .raise hc (.none e) he hr

/-- The rows whose failed call ends the operation. -/
theorem moveOrAbort {call : Bool × Env} {q : Phase} {r : Result} (hc : CallMade s call.2)
    (hg : call.1 = true → Proceeds s (s.setEnv call.2) q) (he : .idle ∈ edges s.seq) (hr : r ≠ .ok) :
    BusyStep s (s.onAck call (State.goto q) (State.raise r)) :=
  onAck (fun hk => move hc (hg hk)) fun _ => abort hc he hr

/-! INIT (44_init.md R200) -/

theorem of_rowISel (hp : s.seq = .iSel) : BusyStep s (rowISel s) :=
  moveOrAbort (.select (by simp [hp])) (fun hk => .select hk (by simp [hp])) (by simp [hp, edges]) nofun

theorem of_readId (hp : s.seq = .iTx) :
    BusyStep s (s.onAck (s.env.transmit [0x9F#8]) (State.goto .iRx) (State.raise .spiError)) :=
  moveOrAbort (.transmit fun ok => by simp [callOf, hp]) (fun _ => .free (by rw [hp]; rfl)) (by simp [hp, edges]) nofun

theorem of_rowIRx (hp : s.seq = .iRx) : BusyStep s (rowIRx s) := by
  have hc : CallMade s (s.env.receive hw.idLen).2 := .receive (.inl ⟨hp, rfl⟩)
  unfold rowIRx
  split
  · exact .goto hc (.idr hp _ _) (.free (by rw [hp]; rfl))
  · exact .raise (hc.skip 4) (.idr hp _ _) (by simp [hp, edges]) nofun

theorem of_rowIDes (hp : s.seq = .iDes) : BusyStep s (rowIDes s) :=
  moveOrAbort (.deselect (by simp [hp])) (fun hk => .release hk hp) (by simp [hp, edges]) nofun

theorem of_rowIDec (hp : s.seq = .iDec) : BusyStep s (rowIDec s) := by
  have hc : CallMade s s.env := .silent (.inr (.inl hp))
  have he : .idle ∈ edges s.seq := by simp [hp, edges]
  unfold rowIDec
  split
  · exact abort hc he nofun
  · next cap hf =>
    split
    · exact .identified hp hf
    · exact abort hc he nofun

/-! BOUNDS and SET_WEL's enable bracket (42_framing_and_bounds.md R156, 41_wel_handshake.md R133) -/

theorem of_rowDChk (hp : s.seq = .dChk) : BusyStep s (rowDChk s) := by
  have hc : CallMade s s.env := .silent (.inr (.inr (.inl hp)))
  unfold rowDChk
  split
  · next hb => exact move hc ⟨by simp [hp, edges], nofun, fun _ => hb, nofun, nofun, nofun, nofun, nofun⟩
  · exact abort hc (by simp [hp, edges]) nofun

theorem of_rowWT0 (hp : s.seq = .wT0) : BusyStep s (rowWT0 s) :=
  .goto (.now (by simp [hp])) (.t0 hp _ _) (.free (by rw [hp]; rfl))

theorem of_rowWSel (hp : s.seq = .wSel) : BusyStep s (rowWSel s) :=
  moveOrAbort (.select (by simp [hp])) (fun hk => .select hk (by simp [hp])) (by simp [hp, edges]) nofun

theorem of_writeEnable (hp : s.seq = .wTx) :
    BusyStep s (s.onAck (s.env.transmit [0x06#8]) (State.goto .wDes) (State.raise .spiError)) :=
  moveOrAbort (.transmit fun ok => by simp [callOf, hp]) (fun _ => .free (by rw [hp]; rfl)) (by simp [hp, edges]) nofun

theorem of_rowWDes (hp : s.seq = .wDes) : BusyStep s (rowWDes s) :=
  moveOrAbort (.deselect (by simp [hp])) (fun _ => .free (by rw [hp]; rfl)) (by simp [hp, edges]) nofun

/-! GET_WEL, whose failed calls all lead to P_TIME (41_wel_handshake.md R131, 60_exceptions.md R211) -/

theorem of_rowPSel (hp : s.seq = .pSel) : BusyStep s (rowPSel s) := by
  have hc : CallMade s s.env.select.2 := .select (by simp [hp])
  exact onAck (fun hk => move hc (.select hk (by simp [hp]))) fun _ => move hc (.free (by rw [hp]; rfl))

theorem of_readStatus (hp : s.seq = .pTx) :
    BusyStep s (s.onAck (s.env.transmit [0x05#8]) (State.goto .pRx) (State.goto .pTime)) := by
  have hc : CallMade s (s.env.transmit [0x05#8]).2 := .transmit fun ok => by simp [callOf, hp]
  exact onAck (fun _ => move hc (.free (by rw [hp]; rfl))) fun _ => move hc (.free (by rw [hp]; rfl))

theorem of_rowPRx (hp : s.seq = .pRx) : BusyStep s (rowPRx s) := by
  have hc : CallMade s (s.env.receive hw.srLen).2 := .receive (.inr (.inl ⟨hp, rfl⟩))
  unfold rowPRx
  split
  · exact .goto hc (.sr hp _ _) (.free (by rw [hp]; rfl))
  · exact .goto (hc.skip 1) (.sr hp _ _) (.free (by rw [hp]; rfl))

theorem of_rowPDes (hp : s.seq = .pDes) : BusyStep s (rowPDes s) := by
  have hc : CallMade s s.env.deselect.2 := .deselect (by simp [hp])
  refine onAck (fun _ => ?_) fun _ => move hc (.free (by rw [hp]; rfl))
  unfold welEdge
  split
  · exact move hc (.free (by rw [hp]; rfl))
  · exact move hc (.free (by rw [hp]; rfl))

theorem of_rowPTime (hp : s.seq = .pTime) : BusyStep s (rowPTime s) := by
  have hc : CallMade s s.env.now.2 := .now (by simp [hp])
  unfold rowPTime
  split
  · exact abort hc (by simp [hp, edges]) nofun
  · exact move hc (.free (by rw [hp]; rfl))

/-! The data bracket (43_data_operations.md R170 to R172) -/

theorem of_rowDSel (hp : s.seq = .dSel) : BusyStep s (rowDSel s) :=
  moveOrAbort (.select (by simp [hp])) (fun hk => .select hk (by simp [hp])) (by simp [hp, edges]) nofun

/-- The frame of D_CMD is the call of its phase. -/
theorem callMade_dCmd {opc : Byte} {bs : List Byte} (hp : s.seq = .dCmd) (ho : s.op.opcode hw = some opc)
    (hf : frame hw s.idr opc s.addr = some bs) : CallMade s (s.env.transmit bs).2 :=
  .transmit fun ok => by simp only [callOf, hp]; exact ⟨opc, bs, ok, ho, hf, rfl⟩

theorem of_writeCommand {bs : List Byte} (hp : s.seq = .dCmd) (ho : s.op = .write)
    (hf : frame hw s.idr 0x02#8 s.addr = some bs) :
    BusyStep s (s.onAck (s.env.transmit bs) (State.goto .dWr) (State.raise .spiError)) :=
  moveOrAbort (callMade_dCmd hp (by rw [ho]; rfl) hf)
    (fun _ => ⟨by simp [hp, edges], nofun, by simp [hp], fun _ => ho, nofun, nofun,
      fun _ => .inl (by rw [hp]; rfl), nofun⟩) (by simp [hp, edges]) nofun

theorem of_readCommand {bs : List Byte} (hp : s.seq = .dCmd) (ho : s.op = .read)
    (hf : frame hw s.idr 0x03#8 s.addr = some bs) :
    BusyStep s (s.onAck (s.env.transmit bs) (State.goto .dRd) (State.raise .spiError)) :=
  moveOrAbort (callMade_dCmd hp (by rw [ho]; rfl) hf)
    (fun _ => ⟨by simp [hp, edges], nofun, by simp [hp], nofun, fun _ => ho, nofun,
      fun _ => .inl (by rw [hp]; rfl), nofun⟩) (by simp [hp, edges]) nofun

theorem of_clearCommand {bs : List Byte} (hp : s.seq = .dCmd) (ho : s.op = .clear ∨ s.op = .erase)
    (hf : frame hw s.idr 0x02#8 s.addr = some bs) :
    BusyStep s (s.onAck (s.env.transmit bs) State.startClear (State.raise .spiError)) := by
  have hc : CallMade s (s.env.transmit bs).2 :=
    callMade_dCmd hp (opc := 0x02#8) (by rcases ho with e | e <;> rw [e] <;> rfl) hf
  refine onAck (fun _ => .goto hc (.idx (.inl hp) _ 0#32) ?_) fun _ => abort hc (by simp [hp, edges]) nofun
  exact ⟨by simp [hp, edges], nofun, by simp [hp], nofun, nofun, fun _ => .inl ⟨ho, rfl⟩,
    fun _ => .inl (by rw [hp]; rfl), nofun⟩

/-- The bytes are drawn before the call, where the host presented too few (log 10). -/
theorem of_rowDWr (hp : s.seq = .dWr) : BusyStep s (rowDWr s) := by
  have hc : CallMade s (s.writeEnv.transmit s.writeBytes).2 := by
    refine .call (.tx s.writeBytes _) ?_ (s.writeEnv.transmit_history _) (s.writeEnv.transmit_storesAtMost _).arrayWf
    simp only [callOf, hp]
    exact ⟨_, _, rfl, s.writeBytes_length, State.writeBytes_of_length⟩
  exact moveOrAbort hc (fun _ => .free (by rw [hp]; rfl)) (by simp [hp, edges]) nofun

theorem of_rowDRd (hp : s.seq = .dRd) : BusyStep s (rowDRd s) := by
  have hc : CallMade s (s.env.receive s.len.toNat).2 := .receive (.inr (.inr ⟨hp, rfl⟩))
  unfold rowDRd
  split
  · exact .goto hc (.rdata hp _ _) (.free (by rw [hp]; rfl))
  · exact abort hc (by simp [hp, edges]) nofun

theorem of_rowDClr (hp : s.seq = .dClr) : BusyStep s (rowDClr s) := by
  unfold rowDClr
  split
  · next hi => exact move (.silent (.inr (.inr (.inr ⟨hp, hi⟩)))) (.free (by rw [hp]; rfl))
  · next hi =>
    have hc : CallMade s (s.env.transmit [hw.clearByte]).2 :=
      .transmit fun ok => by simp only [callOf, hp]; exact ⟨hi, ok, rfl⟩
    refine onAck (fun _ => .goto hc (.idx (.inr hp) _ (s.idx + 1#32)) ?_)
      fun _ => abort hc (by simp [hp, edges]) nofun
    exact ⟨by simp [hp, edges], nofun, by simp [hp], nofun, nofun, fun _ => .inr ⟨hp, hi, rfl⟩,
      fun _ => .inl (by rw [hp]; rfl), nofun⟩

theorem of_rowDDes (hp : s.seq = .dDes) : BusyStep s (rowDDes s) := by
  have hc : CallMade s s.env.deselect.2 := .deselect (by simp [hp])
  exact onAck (fun _ => .finishOk hc (.none _) hp) fun _ => abort hc (by simp [hp, edges]) nofun

/-- The table of 10_state.md R30, the command phases left out. -/
theorem of_phaseRow {t : State} (h : phaseRow s = some t) : BusyStep s t := by
  cases hp : s.seq <;> simp only [phaseRow, hp, Option.some.injEq, reduceCtorEq] at h <;> subst h
  case iSel => exact of_rowISel hp
  case iRx => exact of_rowIRx hp
  case iDes => exact of_rowIDes hp
  case iDec => exact of_rowIDec hp
  case dChk => exact of_rowDChk hp
  case wT0 => exact of_rowWT0 hp
  case wSel => exact of_rowWSel hp
  case wDes => exact of_rowWDes hp
  case pSel => exact of_rowPSel hp
  case pRx => exact of_rowPRx hp
  case pDes => exact of_rowPDes hp
  case pTime => exact of_rowPTime hp
  case dSel => exact of_rowDSel hp
  case dWr => exact of_rowDWr hp
  case dRd => exact of_rowDRd hp
  case dClr => exact of_rowDClr hp
  case dDes => exact of_rowDDes hp

end BusyStep

/-- Everything a step that is not a reset can do when it answers next: wait, accept a request, or one row of the phase
table (10_state.md R30, R31, R32). -/
inductive Transition (s t : State) : Prop where
  | wait (hi : s.seq = .idle) (ht : t = s)
  | accept (o : OpSel) (a n : Word) (p : Phase) (later : List Request) (data : List Byte) (hi : s.seq = .idle)
      (ht : t = { s with request := none, program := later, wdata := data, op := o, addr := a, len := n, seq := p })
      (hk : o = .init ∧ p = .iSel ∨
        o.isData = true ∧ p = .dChk ∧ s.usable = true ∧ (o = .erase → a = 0#32 ∧ n = s.size))
  | busy (hb : s.seq ≠ .idle) (ht : BusyStep s.dropRequest t)

theorem step_transition {s t : State} (h : s.resetLine = false) (hs : step s = .next t) : Transition s t := by
  have hb {p} (hp : s.seq = p) (hn : p ≠ .idle) : s.seq ≠ .idle := hp ▸ hn
  cases step_cases h hs with
  | wait hi ht => exact .wait hi ht
  | acceptInit u a n hi hu ht => exact .accept .init a n .iSel _ _ hi (by rw [ht, hu]; rfl) (.inl ⟨rfl, rfl⟩)
  | acceptData u o a n hi hu ht ho hus he =>
    exact .accept o a n .dChk _ _ hi (by rw [ht, hu]; rfl) (.inr ⟨ho, rfl, hus, he⟩)
  | row hb hr => exact .busy hb (.of_phaseRow hr)
  | readId hp ht => exact .busy (hb hp nofun) (ht ▸ .of_readId hp)
  | writeEnable hp ht => exact .busy (hb hp nofun) (ht ▸ .of_writeEnable hp)
  | readStatus hp ht => exact .busy (hb hp nofun) (ht ▸ .of_readStatus hp)
  | writeCommand bs hp ho hf ht => exact .busy (hb hp nofun) (ht ▸ .of_writeCommand hp ho hf)
  | clearCommand bs hp ho hf ht => exact .busy (hb hp nofun) (ht ▸ .of_clearCommand hp ho hf)
  | readCommand bs hp ho hf ht => exact .busy (hb hp nofun) (ht ▸ .of_readCommand hp ho hf)

end Sys2Proof.Machine

/-! O55: every step keeps the invariant. -/

namespace Sys2Proof.Machine

open Config (hw)

/-! ### Phases along an edge -/

theorem isInit_of_edge {p q : Phase} (hp : p ≠ .idle) (he : q ∈ edges p) (hq : q.isInit = true) :
    p.isInit = true := by
  revert q
  cases p
  case idle => exact absurd rfl hp
  all_goals decide

theorem isData_of_edge {p q : Phase} (hp : p ≠ .idle) (he : q ∈ edges p) (hq : q.isData = true) :
    p.isData = true := by
  revert q
  cases p
  case idle => exact absurd rfl hp
  all_goals decide

/-- The checked phases are entered from D_CHK. -/
theorem isChecked_of_edge {p q : Phase} (he : q ∈ edges p) (hq : q.isChecked = true) :
    p = .dChk ∨ p.isChecked = true := by
  revert q
  cases p <;> decide

namespace State.Inv

variable {s t u : State}

/-- In IDLE the invariant is about the array and SIZE alone. -/
theorem of_idle (hi : t.seq = .idle) (hm : t.memWf) (hz : legalSize t.size) : t.Inv := by
  refine ⟨hm, hz, ?_, ?_, ?_, ?_, ?_, ?_, ?_, ?_, ?_⟩ <;> rw [hi] <;> nofun

theorem dropRequest (h : s.Inv) : s.dropRequest.Inv :=
  ⟨h.mem, h.size, h.init, h.data, h.range, h.erase, h.write, h.read, h.clear, h.line, h.released⟩

theorem applyReset (h : s.Inv) : s.applyReset.Inv := of_idle rfl h.mem (.inl rfl)

/-- Acceptance sets the latches of the operation whose first phase it enters (10_state.md R32). -/
theorem accept {o : OpSel} {a n : Word} {p : Phase} {later : List Request} {data : List Byte} (h : s.Inv)
    (hk : o = .init ∧ p = .iSel ∨
      o.isData = true ∧ p = .dChk ∧ s.usable = true ∧ (o = .erase → a = 0#32 ∧ n = s.size)) :
    { s with request := none, program := later, wdata := data, op := o, addr := a, len := n, seq := p : State }.Inv := by
  rcases hk with ⟨rfl, rfl⟩ | ⟨ho, rfl, hu, he⟩
  · exact ⟨h.mem, h.size, fun _ => rfl, nofun, nofun, nofun, nofun, nofun, nofun, nofun, nofun⟩
  · exact ⟨h.mem, h.size, nofun, fun _ => ⟨ho, hu⟩, nofun, fun _ => he, nofun, nofun, nofun, nofun, nofun⟩

/-- A row that goes on to another busy phase. -/
theorem goto {q : Phase} (h : s.Inv) (hb : s.seq ≠ .idle) (hc : CallMade s u.env) (hw : RowWrites s u)
    (hg : Proceeds s u q) : (u.goto q).Inv where
  mem := hc.arrayWf h.mem
  size := by rw [goto_size, hw.size]; exact h.size
  init hq := hw.op.trans (h.init (isInit_of_edge hb hg.edge hq))
  data hq := by
    have hd := isData_of_edge hb hg.edge hq
    have hi : u.idr = s.idr := hw.idr_eq fun e => by rw [e] at hd; cases hd
    rw [goto_op, goto_usable, hw.op, usable_congr hi hw.size]
    exact h.data hd
  range hq := by
    rw [goto_addr, goto_len, goto_size, hw.addr, hw.len, hw.size]
    rcases isChecked_of_edge hg.edge hq with hp | hp
    · exact boundsOk_iff.1 (hg.bounds hp)
    · exact h.range hp
  erase hq ho := by
    rw [goto_addr, goto_len, goto_size, hw.addr, hw.len, hw.size]
    exact h.erase (isData_of_edge hb hg.edge hq) (hw.op ▸ ho)
  write hq := hw.op.trans (hg.write hq)
  read hq := hw.op.trans (hg.read hq)
  clear hq := by
    rw [goto_op, goto_idx, goto_len, hw.op, hw.len]
    rcases hg.clear hq with ⟨ho, hi⟩ | ⟨hp, hn, hi⟩
    · rw [hi]
      exact ⟨ho, Nat.zero_le _⟩
    · obtain ⟨ho, hl⟩ := h.clear hp
      rw [hi]
      exact ⟨ho, by bv_omega⟩
  line hq := by
    rcases hg.opened hq with hp | hl
    · exact (hc.line_of_inBracket hp hg.edge hq).trans (h.line hp)
    · exact hl
  released hq := hg.released hq

/-- Every row keeps the invariant: one that ends its operation has only the array and SIZE to keep, and INIT writes a
capacity of the table (10_state.md R26). -/
theorem busyStep (h : s.Inv) (hb : s.seq ≠ .idle) (hs : BusyStep s t) : t.Inv := by
  cases hs with
  | goto hc hw hg => exact h.goto hb hc hw hg
  | raise hc hw =>
    refine of_idle rfl ?_ (by rw [raise_size, hw.size]; exact h.size)
    rw [memWf, raise_env]
    exact (hc.skip _).arrayWf h.mem
  | finishOk hc hw => exact of_idle rfl (hc.arrayWf h.mem) (by rw [finishOk_size, hw.size]; exact h.size)
  | identified hp hf => exact of_idle rfl h.mem (.inr (findDensity_capacity hf))

end State.Inv

/-- Settles O55: the rows of the phase table keep the invariant, and so do acceptance and the reset. -/
theorem invariantKept : Obligations.InvariantKept := by
  unfold Obligations.InvariantKept
  intro s t h hs
  cases hr : s.resetLine with
  | true =>
    obtain rfl : s.applyReset = t := by simpa [step_reset hr] using hs
    exact h.applyReset
  | false =>
    cases step_transition hr hs with
    | wait hi ht => exact ht ▸ h
    | accept o a n p later data hi ht hk => exact ht ▸ h.accept hk
    | busy hb ht => exact h.dropRequest.busyStep hb ht

end Sys2Proof.Machine

/-! O47, O48, O49, O50: the phase table's columns, read off the inversion of a step. -/

namespace Sys2Proof.Machine

open Config (hw)

namespace BusyStep

variable {s t : State}

theorem edge (h : BusyStep s t) : t.seq ∈ edges s.seq := by
  cases h with
  | goto _ _ hg => exact hg.edge
  | raise _ _ he => exact he
  | finishOk _ _ hp => simp [hp, edges]
  | identified hp => simp [hp, edges]

/-- The bytes an abort draws for RDATA are no call. -/
theorem callMade (h : BusyStep s t) : CallMade s t.env := by
  cases h with
  | goto hc => exact hc
  | raise hc => rw [State.raise_env]; exact hc.skip _
  | finishOk hc => exact hc
  | identified hp => exact .silent (.inr (.inl hp))

/-- Once its register is written, a row leaves the other registers and the host's inputs alone. -/
theorem frame (h : BusyStep s t) : ∃ u, RowWrites s u ∧
    t = { u with seq := t.seq, result := t.result, rdata := t.rdata, size := t.size, env := t.env } := by
  cases h with
  | @goto u _ _ hw => exact ⟨u, hw, rfl⟩
  | @raise u _ _ hw => exact ⟨u, hw, by simp [State.raise_eq]⟩
  | @finishOk u _ hw => exact ⟨u, hw, rfl⟩
  | identified => exact ⟨_, .none s.env, rfl⟩

/-- RESULT is written as the operation ends (10_state.md R33). -/
theorem result_eq (h : BusyStep s t) (ht : t.seq ≠ .idle) : t.result = s.result := by
  cases h with
  | goto _ hw => exact hw.result
  | raise | finishOk | identified => exact absurd rfl ht

/-- RDATA is written by the receive of a READ and spoilt by its abort (43_data_operations.md R171). -/
theorem rdata_eq (h : BusyStep s t) (ho : s.op ≠ .read) (hp : s.seq ≠ .dRd) : t.rdata = s.rdata := by
  cases h with
  | goto _ hw => exact hw.rdata_eq hp
  | raise _ hw => rw [State.raise_rdata, hw.op, if_neg ho]; exact hw.rdata_eq hp
  | finishOk _ hw => exact hw.rdata_eq hp
  | identified => rfl

/-- SIZE is written where INIT finishes Ok, and nowhere else (10_state.md R26). -/
theorem size_cases (h : BusyStep s t) :
    (t.size = s.size ∧ (s.seq = .iDec → t.result ≠ .ok)) ∨
    (s.seq = .iDec ∧ t.seq = .idle ∧ t.result = .ok ∧ findDensity hw (density hw s.idr) = some t.size) := by
  cases h with
  | goto _ hw hg =>
    have he := hg.edge
    exact .inl ⟨hw.size, fun hp => by simp [hp, edges, hg.busy] at he⟩
  | raise _ hw _ hr => exact .inl ⟨by rw [State.raise_size, hw.size], fun _ => hr⟩
  | finishOk _ hw hp => exact .inl ⟨hw.size, by simp [hp]⟩
  | identified hp hf => exact .inr ⟨hp, rfl, rfl, hf⟩

end BusyStep

/-- Settles O47: acceptance leads to the first phase of INIT or of a data operation, and every row takes an edge. -/
theorem phaseEdges : Obligations.PhaseEdges := by
  unfold Obligations.PhaseEdges
  intro s t hr hs
  cases step_transition hr hs with
  | wait hi ht => simp [ht, hi, edges]
  | accept o a n p later data hi ht hk =>
    have hp : p = .iSel ∨ p = .dChk := hk.imp And.right fun h => h.2.1
    simpa [ht, hi, edges] using Or.inr hp
  | busy hb ht => exact ht.edge

/-- Settles O48: the call of the busy row, and none in IDLE. -/
theorem oneCallPerStep : Obligations.OneCallPerStep := by
  unfold Obligations.OneCallPerStep
  intro s t hr hs
  cases step_transition hr hs with
  | wait hi ht => rw [if_pos (.inl hi), ht]
  | accept o a n p later data hi ht => rw [if_pos (.inl hi), ht]
  | busy hb ht =>
    cases ht.callMade with
    | none hp hh =>
      have hp : s.silent := hp
      rw [if_pos hp]
      exact hh
    | call c hc hh =>
      have hc : callOf s c := hc
      rw [if_neg (callOf_not_silent hc)]
      exact ⟨c, hc, hh⟩

/-- Settles O49: a row writes at most one register beside RESULT, each in its own phases; acceptance the latches. -/
theorem registerWriters : Obligations.RegisterWriters := by
  unfold Obligations.RegisterWriters
  intro s t hr hs
  cases step_transition hr hs with
  | wait hi ht => simp [ht]
  | accept o a n p later data hi ht hk =>
    have hp : p ≠ .idle := by rcases hk with ⟨-, rfl⟩ | ⟨-, rfl, -⟩ <;> nofun
    simp [ht, hi, hp]
  | busy hb ht =>
    obtain ⟨u, hw, e⟩ := ht.frame
    have hop : t.op = s.op := (congrArg State.op e).trans hw.op
    have haddr : t.addr = s.addr := (congrArg State.addr e).trans hw.addr
    have hlen : t.len = s.len := (congrArg State.len e).trans hw.len
    refine ⟨not_imp_comm.1 fun hp => (congrArg State.idr e).trans (hw.idr_eq hp),
      not_imp_comm.1 fun hp => (congrArg State.sr e).trans (hw.sr_eq hp),
      not_imp_comm.1 fun hp => (congrArg State.t0 e).trans (hw.t0_eq hp),
      not_imp_comm.1 fun hp => (congrArg State.idx e).trans (hw.idx_eq hp),
      by simp [hop, haddr, hlen],
      fun hn => ⟨hb, not_imp_comm.1 ht.result_eq hn⟩,
      fun hn => ⟨hb, ?_⟩,
      fun hn => absurd ((congrArg State.wdata e).trans hw.wdata) hn⟩
    by_contra hno
    exact hn (ht.rdata_eq (fun h => hno (.inl h)) fun h => hno (.inr h))

/-- Settles O50: only I_DEC's Ok end writes SIZE, with the capacity found. -/
theorem sizeWrittenOnlyByInit : Obligations.SizeWrittenOnlyByInit := by
  unfold Obligations.SizeWrittenOnlyByInit
  intro s t hr hs
  cases step_transition hr hs with
  | wait hi ht => simp [ht, hi]
  | accept o a n p later data hi ht => simp [ht, hi]
  | busy hb ht =>
    rcases ht.size_cases with ⟨hz, hn⟩ | ⟨hp, hi, ho, hf⟩
    · exact ⟨(absurd hz ·), fun hp h => absurd h (hn hp), fun _ _ => hz⟩
    · exact ⟨fun _ => ⟨hp, hi, ho⟩, fun _ _ => ⟨hf, findDensity_capacity hf⟩, fun _ h => absurd ho h⟩

end Sys2Proof.Machine

/-! O28, O29, O30: the host's requests in IDLE and while an operation runs. -/

namespace Sys2Proof.Machine

open Config (hw)

/-! ### Acceptance (10_state.md R32, 43_data_operations.md R174) -/

namespace State

variable {s : State} (o : OpSel) (a n : Word)

theorem acceptData_of_usable (hi : s.seq = .idle) (hu : s.usable = true) :
    s.acceptData o a n = .next (s.accept o a n .dChk) := by simp only [acceptData, hi, hu, if_true]

theorem acceptData_of_not_usable (hi : s.seq = .idle) (hu : s.usable = false) :
    s.acceptData o a n = .refused .notUsable := by simp [acceptData, hi, hu]

theorem acceptData_of_busy (hb : s.seq ≠ .idle) : s.acceptData o a n = .next s := by
  simp only [acceptData, hb, if_false]

end State

/-- Settles O28: INIT is accepted in every idle state, a data operation on a usable one. -/
theorem requestAcceptance : Obligations.RequestAcceptance := by
  unfold Obligations.RequestAcceptance
  intro a n s hi
  refine ⟨?_, fun hu => ?_, fun hu => ?_⟩
  · simp only [exec, execInit, hi, if_true]
    rfl
  · have h o a n : s.acceptData o a n = .next { s with op := o, addr := a, len := n, seq := .dChk } :=
      State.acceptData_of_usable o a n hi hu
    exact ⟨h .read a n, h .write a n, h .clear a n, h .erase 0#32 s.size⟩
  · have h o a n : s.acceptData o a n = .refused .notUsable := State.acceptData_of_not_usable o a n hi hu
    exact ⟨h .read a n, h .write a n, h .clear a n, h .erase 0#32 s.size⟩

/-! ### What the idle controller runs -/

/-- A request word of the opcode table is one for the 67 bits of `REQ` (30_encoding.md R90). -/
theorem decodeTableWord_host {w : Nat} {i : Instr} (h : decodeTableWord 72 w = some i) :
    i = decodeReq (BitVec.ofNat 67 w) := by
  have hc : codeOfTableWord 72 w = if w < 2 ^ 67 then some (.host (BitVec.ofNat 67 w)) else none := by
    simp [codeOfTableWord]
  rw [decodeTableWord, hc] at h
  split_ifs at h
  · simpa [decode] using h.symm

/-- A host operation is placed by presenting its request (log 19). -/
theorem State.place_host {i : Instr} (h : i.space = .host) (req : BitVec 67) (s : State) :
    s.place i req = { s with resetLine := false, seq := .idle, request := some ⟨req, []⟩ } := by
  cases i with
  | init | read | write | clear | erase | reservedOp0 | reservedOp6 | reservedOp7 => rfl
  | _ => cases h

theorem step_idle_request {s t : State} {r : Request} (h : s.resetLine = false) (hi : s.seq = .idle)
    (hr : s.takeRequest = some (r, t)) : step s = exec (decodeReq r.req) t := by
  rw [step_idle h hi, stepIdle, hr]

theorem takeRequest_presented {s : State} {r : Request} (h : s.request = some r) :
    s.takeRequest = some (r, { s with request := none, wdata := r.wdata }) := by
  simp only [State.takeRequest, h]

theorem takeRequest_listed {s : State} {r : Request} {later : List Request} (hn : s.request = none)
    (hp : s.program = r :: later) :
    s.takeRequest = some (r, { s with program := later, wdata := r.wdata }) := by
  simp only [State.takeRequest, hn, hp]

/-- IDLE waits where nothing is presented (log 9). -/
theorem step_wait {s : State} (h : s.resetLine = false) (hi : s.seq = .idle) (hn : s.request = none)
    (hp : s.program = []) : step s = .next s := by
  rw [step_idle h hi, stepIdle, State.takeRequest, hn, hp]

theorem step_withFetchWord {s : State} {w : Nat} {i : Instr} (h : decodeTableWord 72 w = some i) :
    step (s.withFetchWord 72 w) =
      exec i { s with resetLine := false, seq := .idle, request := none, wdata := [] } := by
  have hi := decodeTableWord_host h
  have hp : s.withFetchWord 72 w =
      { s with resetLine := false, seq := .idle, request := some ⟨BitVec.ofNat 67 w, []⟩ } := by
    rw [State.withFetchWord, h]
    exact State.place_host (by rw [hi, decodeReq_space]) _ s
  rw [hp, hi]
  exact step_idle_request (r := ⟨BitVec.ofNat 67 w, []⟩) rfl rfl (takeRequest_presented rfl)

/-- Settles O30: the request taken in IDLE, the frame in a command phase. -/
theorem stepRunsDecodedInstruction : Obligations.StepRunsDecodedInstruction := by
  unfold Obligations.StepRunsDecodedInstruction
  exact ⟨fun _ _ _ => step_idle_request, fun _ _ => takeRequest_presented, fun _ _ _ => takeRequest_listed,
    fun _ _ _ => step_command, fun _ => step_wait, fun _ _ _ => step_withFetchWord⟩

/-! ### While an operation runs -/

/-- The host's list of requests replaced (log 8). -/
def State.withProgram (p : List Request) (s : State) : State := { s with program := p }

namespace State

variable (p : List Request) (s : State)

@[simp] theorem withProgram_seq : (s.withProgram p).seq = s.seq := rfl
@[simp] theorem withProgram_env : (s.withProgram p).env = s.env := rfl
@[simp] theorem withProgram_len : (s.withProgram p).len = s.len := rfl
@[simp] theorem withProgram_idr : (s.withProgram p).idr = s.idr := rfl

theorem withProgram_raise (r : Result) : (s.withProgram p).raise r = (s.raise r).withProgram p := by
  rw [raise_eq, raise_eq]; rfl

/-- A row made of a test commutes with the host's list when both its edges do. -/
theorem withProgram_ite {c : Prop} [Decidable c] {a b a' b' : State} (ha : a' = a.withProgram p)
    (hb : b' = b.withProgram p) : (if c then a' else b') = (if c then a else b).withProgram p := by
  rw [ha, hb, apply_ite (State.withProgram p)]

/-- A row made of an ok-or-fail call commutes with the host's list when both its edges do. -/
theorem withProgram_onAck (call : Bool × Env) {good bad : State → State}
    (hg : ∀ u : State, good (u.withProgram p) = (good u).withProgram p)
    (hb : ∀ u : State, bad (u.withProgram p) = (bad u).withProgram p) :
    (s.withProgram p).onAck call good bad = (s.onAck call good bad).withProgram p :=
  withProgram_ite p (hg (s.setEnv call.2)) (hb (s.setEnv call.2))

theorem withProgram_moveOrAbort (call : Bool × Env) (q : Phase) (r : Result) :
    (s.withProgram p).onAck call (goto q) (raise r) = (s.onAck call (goto q) (raise r)).withProgram p :=
  withProgram_onAck p s call (fun _ => rfl) (withProgram_raise p · r)

end State

/-- No row of the phase table reads the host's list. -/
theorem phaseRow_withProgram (p : List Request) (s : State) :
    phaseRow (s.withProgram p) = (phaseRow s).map (State.withProgram p) := by
  cases hp : s.seq
  all_goals simp only [phaseRow, State.withProgram_seq, hp, Option.map_none, Option.map_some, Option.some.injEq]
  case iSel | iDes | wSel | wDes | dSel | dWr => exact State.withProgram_moveOrAbort p s _ _ _
  case wT0 => rfl
  case pSel => exact State.withProgram_onAck p s _ (fun _ => rfl) fun _ => rfl
  case pDes => exact State.withProgram_onAck p s _ (fun u => State.withProgram_ite p rfl rfl) fun _ => rfl
  case dDes => exact State.withProgram_onAck p s _ (fun _ => rfl) (State.withProgram_raise p · _)
  case dChk => exact State.withProgram_ite p rfl (State.withProgram_raise p s _)
  case pTime => exact State.withProgram_ite p (State.withProgram_raise p (s.setEnv _) _) rfl
  case dClr =>
    exact State.withProgram_ite p rfl
      (State.withProgram_onAck p s _ (fun _ => rfl) (State.withProgram_raise p · _))
  case iRx =>
    simp only [rowIRx, State.withProgram_env]
    split
    · rfl
    · exact State.withProgram_raise p (s.setEnv _).anyIdr _
  case iDec =>
    simp only [rowIDec, State.withProgram_idr]
    split
    · exact State.withProgram_raise p s _
    · exact State.withProgram_ite p rfl (State.withProgram_raise p s _)
  case pRx =>
    simp only [rowPRx, State.withProgram_env]
    split <;> rfl
  case dRd =>
    simp only [rowDRd, State.withProgram_len, State.withProgram_env]
    split
    · rfl
    · exact State.withProgram_raise p (s.setEnv _) _

section DataCommand

variable {s : State} (bs : List Byte)

theorem transmitWrite_of_write (h : s.op = .write) :
    transmitWrite bs s = .next (s.onAck (s.env.transmit bs) (State.goto .dWr) (State.raise .spiError)) := by
  simp only [transmitWrite, h, transmitCommand]

theorem transmitWrite_of_clear (h : s.op = .clear ∨ s.op = .erase) :
    transmitWrite bs s = .next (s.onAck (s.env.transmit bs) State.startClear (State.raise .spiError)) := by
  rcases h with h | h <;> simp only [transmitWrite, h, transmitCommand]

theorem transmitRead_of_read (h : s.op = .read) :
    transmitRead bs s = .next (s.onAck (s.env.transmit bs) (State.goto .dRd) (State.raise .spiError)) := by
  simp only [transmitRead, h, transmitCommand]

end DataCommand

/-- A busy step of `v`, which is `s` but for the request presented and the list of those to come. -/
theorem step_of_other_requests {s t v : State} {p : List Request} (h : s.resetLine = false) (hb : s.seq ≠ .idle)
    (hs : step s = .next t) (hv : v.dropRequest = s.dropRequest.withProgram p) : step v = .next (t.withProgram p) := by
  have hr : v.resetLine = false := (congrArg State.resetLine hv :).trans h
  have seq : v.seq = s.seq := (congrArg State.seq hv :)
  have op : v.op = s.op := (congrArg State.op hv :)
  have field {opc} : frame hw v.idr opc v.addr = frame hw s.idr opc s.addr :=
    (congrArg (fun u => frame hw u.idr opc u.addr) hv :)
  have acks {call good bad} (ht : t = s.dropRequest.onAck call good bad)
      (hg : ∀ u : State, good (u.withProgram p) = (good u).withProgram p)
      (hb : ∀ u : State, bad (u.withProgram p) = (bad u).withProgram p)
      (hn : step v = .next ((s.dropRequest.withProgram p).onAck call good bad)) : step v = .next (t.withProgram p) := by
    rw [hn, ht, State.withProgram_onAck p _ _ hg hb]
  have aborts (r) (u : State) : (u.withProgram p).raise r = (u.raise r).withProgram p := u.withProgram_raise p r
  cases step_cases h hs with
  | wait hi | acceptInit _ _ _ hi | acceptData _ _ _ _ hi => exact absurd hi hb
  | row _ ht =>
    refine step_row hr (seq ▸ hb) ?_
    rw [hv, phaseRow_withProgram, ht, Option.map_some]
  | readId hp ht =>
    refine acks ht (fun _ => rfl) (aborts _) ?_
    rw [step_iTx hr (seq.trans hp), hv]
    rfl
  | writeEnable hp ht =>
    refine acks ht (fun _ => rfl) (aborts _) ?_
    rw [step_wTx hr (seq.trans hp), hv]
    rfl
  | readStatus hp ht =>
    refine acks ht (fun _ => rfl) (fun _ => rfl) ?_
    rw [step_pTx hr (seq.trans hp), hv]
    rfl
  | writeCommand bs hp ho hf ht =>
    refine acks ht (fun _ => rfl) (aborts _) ?_
    rw [step_dCmd_write hr (seq.trans hp) (.inl (op.trans ho)) (field.trans hf), hv]
    exact transmitWrite_of_write bs ho
  | clearCommand bs hp ho hf ht =>
    refine acks ht (fun _ => rfl) (aborts _) ?_
    rw [step_dCmd_write hr (seq.trans hp) (.inr (op ▸ ho)) (field.trans hf), hv]
    exact transmitWrite_of_clear bs ho
  | readCommand bs hp ho hf ht =>
    refine acks ht (fun _ => rfl) (aborts _) ?_
    rw [step_dCmd_read hr (seq.trans hp) (op.trans ho) (field.trans hf), hv]
    exact transmitRead_of_read bs ho

/-- Settles O29: a busy step reads neither the request nor the list, and drops the one and keeps the other. -/
theorem busyRequestHasNoEffect : Obligations.BusyRequestHasNoEffect := by
  unfold Obligations.BusyRequestHasNoEffect
  intro s hb
  have data o a n : s.acceptData o a n = .next s := State.acceptData_of_busy o a n hb
  refine ⟨fun a n => ⟨if_neg hb, data .read a n, data .write a n, data .clear a n, data .erase 0#32 s.size⟩, ?_⟩
  intro h q p t hs
  cases step_transition h hs with
  | wait hi | accept _ _ _ _ _ _ hi => exact absurd hi hb
  | busy _ ht =>
    obtain ⟨u, hw, e⟩ := ht.frame
    exact ⟨(congrArg State.request e).trans hw.request, (congrArg State.program e).trans hw.program,
      step_of_other_requests h hb hs rfl⟩

end Sys2Proof.Machine

/-! O59: what the host reads. -/

namespace Sys2Proof.Machine

namespace State

variable {s : State}

theorem hostRead_idle (hi : s.seq = .idle) (r : HostReg) : s.hostRead r = (r.value s, s) := if_pos (.inl hi)

/-- Busy is read as it is at any time (10_state.md R20; log 20). -/
theorem hostRead_busy (s : State) : s.hostRead .busy = (if s.seq = .idle then 0#32 else 1#32, s) := if_pos (.inr rfl)

end State

/-- Settles O59: a read in IDLE gives the register's value, and busy is read in every phase. -/
theorem hostReadsInIdle : Obligations.HostReadsInIdle := by
  unfold Obligations.HostReadsInIdle
  refine ⟨fun s hi => ?_, fun s => ⟨fun hi => ?_, fun hb => ?_⟩⟩
  · simp only [State.hostRead_idle hi, HostReg.value, Prod.mk.injEq, and_true]
    refine ⟨rfl, ?_, trivial, ?_⟩
    · exact BitVec.setWidth_eq_append (by decide)
    · cases s.result <;> rfl
  · rw [State.hostRead_busy, if_pos hi]
  · rw [State.hostRead_busy, if_neg hb]

end Sys2Proof.Machine

/-! O46: the memory frame of a step. -/

namespace Sys2Proof.Machine

open Config (hw)

/-! ### One call and the array (20_memory.md R58) -/

namespace Env

/-- Between `e` and `f` the array is kept, or the one call made is a transmit that stored at most its own bytes. -/
def StoresOneCall (e f : Env) : Prop :=
  KeepsArray e f ∨ ∃ bs ok, f.history = .tx bs ok :: e.history ∧ StoresAtMost bs e f

theorem transmit_storesOneCall (bs : List Byte) (e : Env) : StoresOneCall e (e.transmit bs).2 :=
  .inr ⟨bs, _, e.transmit_history bs, e.transmit_storesAtMost bs⟩

/-- Free values drawn after the call are no call. -/
theorem StoresOneCall.skip {e f : Env} (h : StoresOneCall e f) (n : Nat) : StoresOneCall e (f.skip n) := h

/-- Free values drawn before the call are no call. -/
theorem StoresOneCall.of_skip {e f : Env} {n : Nat} (h : StoresOneCall (e.skip n) f) : StoresOneCall e f := h

theorem KeepsArray.storesOneCall {e f : Env} (h : KeepsArray e f) : StoresOneCall e f := .inl h

/-- A byte that a transmit may have changed is one of the bytes transmitted, at its place after the pointer. -/
theorem StoresAtMost.memRead {s t : State} {bs : List Byte} (h : StoresAtMost bs s.env t.env) {a : Nat} {b : Byte}
    (hb : t.memRead a = some b) :
    s.memRead a = some b ∨ ∃ c, s.env.chip = some c ∧ c.cs = true ∧ c.cmd = some hw.opcWrite ∧ c.latch = true ∧
      c.ptr ≤ a ∧ bs[a - c.ptr]? = some b := by
  unfold State.memRead at hb ⊢
  cases hd : t.env.chip with
  | none => simp [hd] at hb
  | some d =>
    obtain ⟨c, hc, hcap, hm | ⟨hcs, hcmd, hl, -, hm⟩⟩ := h d hd
    · exact .inl (by simpa [hd, hc, hm, hcap] using hb)
    · simp only [hd, hcap, Option.ite_none_right_eq_some, Option.some.injEq] at hb
      obtain ⟨ha, hb⟩ := hb
      by_cases hin : c.ptr ≤ a ∧ a < c.ptr + bs.length
      · have hk : a - c.ptr < bs.length := by omega
        have hr := Memory.read_store_inside bs c.mem c.ptr (a - c.ptr) hk
        rw [Nat.add_sub_cancel' hin.1, ← hm, hb] at hr
        exact .inr ⟨c, hc, hcs, hcmd, hl, hin.1, by rw [List.getElem?_eq_getElem hk, hr]⟩
      · rw [hm, Memory.read_store_outside bs _ _ _ (by omega)] at hb
        exact .inl (by simp [hc, ha, hb])

end Env

/-- `t` is `s` after at most one call, and the array holds nothing new but that call's data. -/
abbrev State.StoresOneCall (s t : State) : Prop := s.env.StoresOneCall t.env

namespace State.StoresOneCall

variable {s u t : State}

/-- An abort makes no call: it draws at most the free bytes of RDATA (60_exceptions.md R214). -/
theorem raise (h : s.StoresOneCall u) (r : Result) : s.StoresOneCall (u.raise r) := by
  unfold State.StoresOneCall
  rw [raise_env]
  exact h.skip _

/-- A row made of an ok-or-fail call makes that call and no other. -/
theorem onAck {call : Bool × Env} {good bad : State → State} (h : s.env.StoresOneCall call.2)
    (hg : ∀ u, s.StoresOneCall u → s.StoresOneCall (good u))
    (hb : ∀ u, s.StoresOneCall u → s.StoresOneCall (bad u)) : s.StoresOneCall (s.onAck call good bad) := by
  rcases onAck_cases s call good bad with ⟨-, ht⟩ | ⟨-, ht⟩
  · rw [ht]; exact hg _ h
  · rw [ht]; exact hb _ h

/-- The rows whose failed call ends the operation. -/
theorem moveOrAbort {call : Bool × Env} {q : Phase} {r : Result} (h : s.env.StoresOneCall call.2) :
    s.StoresOneCall (s.onAck call (State.goto q) (State.raise r)) :=
  onAck h (fun _ hu => hu) fun _ hu => hu.raise r

theorem refl (s : State) : s.StoresOneCall s := (Env.KeepsArray.refl s.env).storesOneCall

/-- The rows of the phase table that transmit no command frame (10_state.md R30). -/
theorem of_phaseRow (h : phaseRow s = some t) : s.StoresOneCall t := by
  have sel := s.env.select_keepsArray.storesOneCall
  have des := s.env.deselect_keepsArray.storesOneCall
  have now := s.env.now_keepsArray.storesOneCall
  have rx n := (s.env.receive_keepsArray n).storesOneCall
  cases hp : s.seq <;> simp only [phaseRow, hp, Option.some.injEq, reduceCtorEq] at h <;> subst h
  case iSel | wSel | dSel => exact moveOrAbort sel
  case iDes | wDes => exact moveOrAbort des
  case pSel => exact onAck sel (fun _ hu => hu) fun _ hu => hu
  case dDes => exact onAck des (fun _ hu => hu) fun _ hu => hu.raise _
  case wT0 => exact now
  case dWr => exact moveOrAbort (s.writeEnv.transmit_storesOneCall _).of_skip
  case iRx =>
    unfold rowIRx
    split
    · exact rx _
    · exact raise ((rx _).skip 4) _
  case pRx =>
    unfold rowPRx
    split
    · exact rx _
    · exact (rx _).skip 1
  case dRd =>
    unfold rowDRd
    split
    · exact rx _
    · exact raise (rx _) _
  case iDec =>
    unfold rowIDec
    split
    · exact (refl s).raise _
    · split
      · exact refl s
      · exact (refl s).raise _
  case dChk =>
    unfold rowDChk
    split
    · exact refl s
    · exact (refl s).raise _
  case pDes =>
    refine onAck des (fun u hu => ?_) fun _ hu => hu
    unfold welEdge
    split <;> exact hu
  case pTime =>
    unfold rowPTime
    split
    · exact raise now _
    · exact now
  case dClr =>
    unfold rowDClr
    split
    · exact refl s
    · exact onAck (s.env.transmit_storesOneCall _) (fun _ hu => hu) fun _ hu => hu.raise _

/-- Every step: IDLE and a reset make no call, a busy step makes that of its phase. -/
theorem of_step (h : step s = .next t) : s.StoresOneCall t := by
  cases hr : s.resetLine with
  | true =>
    obtain rfl : s.applyReset = t := by simpa [step_reset hr] using h
    exact refl s
  | false =>
    have tx bs : s.env.StoresOneCall (s.env.transmit bs).2 := s.env.transmit_storesOneCall bs
    cases step_cases hr h with
    | wait hi ht => exact ht ▸ refl s
    | acceptInit u a n hi hu ht => rw [ht, hu]; exact refl s
    | acceptData u o a n hi hu ht => rw [ht, hu]; exact refl s
    | row hb hrow => exact of_phaseRow (s := s.dropRequest) hrow
    | readId hp ht => rw [ht]; exact moveOrAbort (s := s.dropRequest) (tx _)
    | writeEnable hp ht => rw [ht]; exact moveOrAbort (s := s.dropRequest) (tx _)
    | readStatus hp ht => rw [ht]; exact onAck (s := s.dropRequest) (tx _) (fun _ hu => hu) fun _ hu => hu
    | writeCommand bs hp ho hf ht => rw [ht]; exact moveOrAbort (s := s.dropRequest) (tx bs)
    | clearCommand bs hp ho hf ht =>
      rw [ht]; exact onAck (s := s.dropRequest) (tx bs) (fun _ hu => hu) fun _ hu => hu.raise _
    | readCommand bs hp ho hf ht => rw [ht]; exact moveOrAbort (s := s.dropRequest) (tx bs)

end State.StoresOneCall

/-- Settles O46: a step keeps the array, or makes one transmit that stored at most its own bytes. -/
theorem stepMemoryFrame : Obligations.StepMemoryFrame := by
  unfold Obligations.StepMemoryFrame
  intro s t hs a b hb
  rcases State.StoresOneCall.of_step hs with hk | ⟨bs, ok, hh, hst⟩
  · exact .inl (SameMemory.of_keepsArray hk a b hb)
  · rcases hst.memRead hb with hr | ⟨c, hc, hcs, hcmd, hl, hp, hbs⟩
    · exact .inl hr
    · exact .inr ⟨c, bs, ok, hc, hh, hcs, hcmd, hl, hp, hbs⟩

end Sys2Proof.Machine

/-! O42, O43, O44: the data operations on the reference responder of 95_test_vectors.md section 4 (a fixture, log 4). -/

namespace Sys2Proof.Machine

open Config (hw)

/-! ### Calls that the responder answers -/

namespace Env

/-- The next call is answered by the responder `c`. -/
def AnsweredBy (e : Env) (c : Chip) : Prop := e.script = [] ∧ e.chip = some c

namespace AnsweredBy

variable {e : Env} {c d : Chip}

theorem select (h : e.AnsweredBy c) : e.select.1 = true ∧ e.select.2.AnsweredBy c.select := by
  rw [select_chip h.1 h.2]; exact ⟨rfl, h.1, rfl⟩

theorem deselect (h : e.AnsweredBy c) : e.deselect.1 = true ∧ e.deselect.2.AnsweredBy c.deselect := by
  rw [deselect_chip h.1 h.2]; exact ⟨rfl, h.1, rfl⟩

theorem transmit {bs : List Byte} (h : e.AnsweredBy c) (ht : c.transmit bs = some d) :
    (e.transmit bs).1 = true ∧ (e.transmit bs).2.AnsweredBy d := by
  rw [transmit_chip h.1 h.2 ht]; exact ⟨rfl, h.1, rfl⟩

theorem receive {n : Nat} {bs : List Byte} (h : e.AnsweredBy c) (ht : c.receive n = some (bs, d)) :
    (e.receive n).1 = some bs ∧ (e.receive n).2.AnsweredBy d := by
  rw [receive_chip h.1 h.2 ht]; exact ⟨rfl, h.1, rfl⟩

/-- A clock read moves the clock and nothing else. -/
theorem now (h : e.AnsweredBy c) : ∃ clock, e.now.2.AnsweredBy { c with clock := clock } := by
  obtain ⟨hs, hc⟩ := h
  cases hk : c.clock with
  | nil =>
    have hn : e.now.2 = { e with draws := e.draws + 1, history := e.now.2.history } := by
      simp [Env.now, nowAnswer, reply, hs, ownNow, hc, Chip.now, hk, skip, popReply, record]
    exact ⟨c.clock, by rw [hn]; exact ⟨hs, hc⟩⟩
  | cons t later => exact ⟨later, by simp [AnsweredBy, Env.now, nowAnswer, reply, hs, ownNow, hc, Chip.now, hk]⟩

end AnsweredBy

end Env

/-! ### Steps whose call the responder answers -/

/-- A state of a run: the registers of `s`, in phase `p`, with `e` behind the port. -/
def State.on (s : State) (p : Phase) (e : Env) : State := { s with seq := p, env := e }

theorem step_phaseRow {s t : State} (hq : s.quiet) (hr : phaseRow s = some t) : step s = .next t :=
  step_row hq.1 (fun hi => by simp [phaseRow, hi] at hr) (by rw [dropRequest_of_none hq.2, hr])

section Steps

variable {s : State} {e : Env} {c d : Chip} {bs : List Byte} (hq : s.quiet) (he : e.AnsweredBy c)
include hq

/-- A row made of one ok-or-fail call. -/
theorem step_ack {p : Phase} {call : Bool × Env} {good bad : State → State}
    (hr : phaseRow (s.on p e) = some ((s.on p e).onAck call good bad)) (hk : call.1 = true) :
    step (s.on p e) = .next (good (s.on p call.2)) :=
  step_phaseRow hq (by rw [hr, State.onAck, if_pos hk]; rfl)

theorem step_move {p q : Phase} {call : Bool × Env} {bad : State → State}
    (hr : phaseRow (s.on p e) = some ((s.on p e).onAck call (State.goto q) bad)) (hk : call.1 = true) :
    step (s.on p e) = .next (s.on q call.2) := step_ack hq hr hk

include he

theorem step_select (p q : Phase) (h : (p, q) ∈ [(.wSel, .wTx), (.pSel, .pTx), (.dSel, .dCmd)]) :
    ∃ e', step (s.on p e) = .next (s.on q e') ∧ e'.AnsweredBy c.select := by
  obtain ⟨hk, ha⟩ := he.select
  simp only [List.mem_cons, Prod.mk.injEq, List.not_mem_nil, or_false] at h
  rcases h with ⟨rfl, rfl⟩ | ⟨rfl, rfl⟩ | ⟨rfl, rfl⟩ <;> exact ⟨_, step_move hq rfl hk, ha⟩

/-- A command phase. -/
theorem step_transmit {p : Phase} {good bad : State → State}
    (hs : step (s.on p e) = transmitCommand bs good bad (s.on p e).dropRequest) (ht : c.transmit bs = some d) :
    ∃ e', step (s.on p e) = .next (good (s.on p e')) ∧ e'.AnsweredBy d := by
  obtain ⟨hk, ha⟩ := he.transmit ht
  have hd : (s.on p e).dropRequest = s.on p e := dropRequest_of_none hq.2
  refine ⟨_, ?_, ha⟩
  rw [hs, hd, transmitCommand, State.onAck]
  exact congrArg _ (if_pos hk)

theorem step_wT0 :
    ∃ t0 e' clock, step (s.on .wT0 e) = .next ({ s with t0 := t0 }.on .wSel e') ∧
      e'.AnsweredBy { c with clock := clock } := by
  obtain ⟨clock, ha⟩ := he.now
  exact ⟨e.now.1, _, clock, step_phaseRow hq rfl, ha⟩

theorem step_wDes : ∃ e', step (s.on .wDes e) = .next (s.on .pSel e') ∧ e'.AnsweredBy c.deselect := by
  obtain ⟨hk, ha⟩ := he.deselect
  exact ⟨_, step_move hq rfl hk, ha⟩

theorem step_pRx {b : Byte} (hr : c.receive 1 = some ([b], d)) :
    ∃ e', step (s.on .pRx e) = .next ({ s with sr := b }.on .pDes e') ∧ e'.AnsweredBy d := by
  obtain ⟨hk, ha⟩ := he.receive hr
  refine ⟨_, step_phaseRow hq ?_, ha⟩
  have hk : ((s.on .pRx e).env.receive hw.srLen).1 = some [b] := hk
  simp only [phaseRow, State.on, rowPRx] at hk ⊢
  rw [hk]
  rfl

/-- The poll that finds WEL set (10_state.md R30). -/
theorem step_pDes (hl : welSet hw s.sr = true) :
    ∃ e', step (s.on .pDes e) = .next (s.on .dSel e') ∧ e'.AnsweredBy c.deselect := by
  obtain ⟨hk, ha⟩ := he.deselect
  have hs := step_ack (good := welEdge hw) (p := .pDes) hq rfl hk
  exact ⟨_, hs.trans (congrArg _ (if_pos hl)), ha⟩

theorem step_dWr (hl : s.wdata.length = s.len.toNat) (ht : c.transmit s.wdata = some d) :
    ∃ e', step (s.on .dWr e) = .next (s.on .dDes e') ∧ e'.AnsweredBy d := by
  obtain ⟨hk, ha⟩ := he.transmit ht
  have hb : (s.on .dWr e).writeBytes = s.wdata := State.writeBytes_of_length hl
  have hw : (s.on .dWr e).writeEnv = e := State.writeEnv_of_length hl
  refine ⟨_, step_move (bad := State.raise .spiError) hq ?_ hk, ha⟩
  show some (rowDWr _) = _
  rw [rowDWr, hb, hw]

theorem step_dRd (hr : c.receive s.len.toNat = some (bs, d)) :
    ∃ e', step (s.on .dRd e) = .next ({ s with rdata := .bytes bs }.on .dDes e') ∧ e'.AnsweredBy d := by
  obtain ⟨hk, ha⟩ := he.receive hr
  refine ⟨_, step_phaseRow hq ?_, ha⟩
  simp only [phaseRow, State.on, rowDRd]
  rw [hk]
  rfl

/-- One byte of the clear loop (43_data_operations.md R172). -/
theorem step_dClr (hi : s.idx ≠ s.len) (ht : c.transmit [0x00#8] = some d) :
    ∃ e', step (s.on .dClr e) = .next ({ s with idx := s.idx + 1#32 }.on .dClr e') ∧ e'.AnsweredBy d := by
  obtain ⟨hk, ha⟩ := he.transmit ht
  exact ⟨_, step_ack (good := fun t => t.bumpIdx.goto .dClr) (p := .dClr) hq (congrArg some (if_neg hi)) hk, ha⟩

theorem step_dDes :
    ∃ e', step (s.on .dDes e) = .next { s.on .idle e' with result := .ok } ∧ e'.AnsweredBy c.deselect := by
  obtain ⟨hk, ha⟩ := he.deselect
  exact ⟨_, step_ack (good := State.finishOk) hq rfl hk, ha⟩

omit he

/-- The clear loop is left without a call (10_state.md R30). -/
theorem step_dClr_end (hi : s.idx = s.len) : step (s.on .dClr e) = .next (s.on .dDes e) :=
  step_phaseRow hq (congrArg some (if_pos hi))

end Steps

/-! ### The handshake (41_wel_handshake.md R133) -/

/-- The responder after the write-enable bracket: its latch is set and its lag begins. -/
def Chip.enabled (c : Chip) (clock : List Word) : Chip :=
  { c with cs := false, cmd := some hw.opcWren, latch := true, pending := c.lag, clock := clock }

/-- The responder after a poll that read its latch. -/
def Chip.polled (c : Chip) : Chip := { c with cs := false, cmd := some hw.opcRdsr }

theorem Chip.enable_bracket (c : Chip) (clock : List Word) :
    ∃ d, Chip.transmit { c with clock := clock }.select [hw.opcWren] = some d ∧ d.deselect = c.enabled clock :=
  ⟨_, rfl, rfl⟩

theorem Chip.poll_bracket {c : Chip} (hl : c.latch = true) (hn : c.pending = .reads 0) :
    ∃ d, c.select.transmit [hw.opcRdsr] = some d ∧ d.receive 1 = some ([0x02#8], d) ∧ d.deselect = c.polled := by
  refine ⟨_, rfl, ?_, rfl⟩
  simp [Chip.receive, Chip.select, Chip.status, hl, hn, hw]

section Handshake

variable {s : State} {e : Env} {c : Chip} (hq : s.quiet) (he : e.AnsweredBy c)
include hq he

/-- The write-enable bracket sets the latch. -/
theorem enable_steps :
    ∃ t0 e' clock, Steps 4 (s.on .wT0 e) ({ s with t0 := t0 }.on .pSel e') ∧ e'.AnsweredBy (c.enabled clock) := by
  obtain ⟨t0, e1, clock, s1, a1⟩ := step_wT0 hq he
  have hq : { s with t0 := t0 }.quiet := hq
  obtain ⟨d, ht, hd⟩ := c.enable_bracket clock
  obtain ⟨e2, s2, a2⟩ := step_select hq a1 .wSel .wTx (by decide)
  obtain ⟨e3, s3, a3⟩ := step_transmit hq a2 (step_wTx hq.1 rfl) ht
  obtain ⟨e4, s4, a4⟩ := step_wDes hq a3
  exact ⟨t0, e4, clock, .cons s1 (.cons s2 (.cons s3 (.one s4))), hd ▸ a4⟩

/-- A poll answers SET once the latch is set and no lag is left. -/
theorem poll_steps (hl : c.latch = true) (hn : c.pending = .reads 0) :
    ∃ e', Steps 4 (s.on .pSel e) ({ s with sr := 0x02#8 }.on .dSel e') ∧ e'.AnsweredBy c.polled := by
  obtain ⟨d, ht, hr, hd⟩ := Chip.poll_bracket hl hn
  obtain ⟨e1, s1, a1⟩ := step_select hq he .pSel .pTx (by decide)
  obtain ⟨e2, s2, a2⟩ := step_transmit hq a1 (step_pTx hq.1 rfl) ht
  obtain ⟨e3, s3, a3⟩ := step_pRx hq a2 hr
  have hq : { s with sr := 0x02#8 }.quiet := hq
  obtain ⟨e4, s4, a4⟩ := step_pDes hq a3 (by decide : welSet hw 0x02#8 = true)
  exact ⟨e4, .cons s1 (.cons s2 (.cons s3 (.one s4))), hd ▸ a4⟩

end Handshake

/-! ### Up to the data command -/

/-- An address within a usable part's array has no bit above the part's address width (30_encoding.md R83, R84). -/
theorem address_fits {s : State} {w : Nat} {a : Word} (hu : s.usable = true)
    (hwidth : addressWidth hw (density hw s.idr) = some w) (ha : a.toNat ≤ s.size.toNat) : a.toNat < 256 ^ w := by
  rw [addressWidth, ((State.usable_iff s).1 hu).1] at hwidth
  simp only [Option.map_some, Option.some.injEq] at hwidth
  split at hwidth <;> subst hwidth
  · next hz =>
    have hz : s.size.toNat ≤ 65536 := hz
    exact (ha.trans hz).trans_lt (by decide)
  · exact a.isLt

/-- FRAME in corrected mode (42_framing_and_bounds.md R150). -/
theorem frame_of_addressWidth {r : IdReg} {w : Nat} (h : addressWidth hw (density hw r) = some w) (opc : Byte)
    (a : Word) : frame hw r opc a = some (opc :: bigEndianBytes w a.toNat) := by
  rw [frame, h, Option.map_some, addressBytes_eq]
  rfl

/-- The responder once the opcode and the address of a data command have been received. -/
def Chip.addressed (c : Chip) (opc : Byte) (a : Nat) : Chip := { c with cs := true, cmd := some opc, ptr := a }

/-- The responder takes its pointer from the frame of the command. -/
theorem Chip.transmit_command {c : Chip} {opc : Byte} (ho : opc = hw.opcWrite ∨ opc = hw.opcRead) {a : Nat}
    (ha : a < 256 ^ c.width) :
    c.select.transmit (opc :: bigEndianBytes c.width a) = some (c.addressed opc a) := by
  have hn : opc ≠ hw.opcWren := by rcases ho with rfl | rfl <;> decide
  have ht : (bigEndianBytes c.width a).take c.width = bigEndianBytes c.width a := List.take_of_length_le (by simp)
  have hp : bigEndianValue ((bigEndianBytes c.width a).take c.width) = a := by
    rw [ht, bigEndianValue_bytes, Nat.mod_eq_of_lt ha]
  simp [Chip.transmit, Chip.command, Chip.select, Chip.addressed, hn, ho, hp]

/-- A data operation on `a` and `n` whose handshake has ended. -/
def State.handshaken (s : State) (o : OpSel) (a n t0 : Word) : State :=
  { s with op := o, addr := a, len := n, sr := 0x02#8, t0 := t0 }

/-- The responder in the data phase of an operation: its latch set by the handshake, its pointer by the command. -/
def Chip.inData (c : Chip) (opc : Byte) (a : Word) (clock : List Word) : Chip :=
  (c.enabled clock).polled.addressed opc a.toNat

/-- Accepted on a responder that fits, a data operation selects it for its data bracket. -/
theorem select_steps {s : State} {c : Chip} (o : OpSel) {a n : Word} (h : respondsWell s c)
    (hb : a.toNat + n.toNat ≤ s.size.toNat) :
    ∃ t0 e clock, Steps 10 (s.accept o a n .dChk) ((s.handshaken o a n t0).on .dCmd e) ∧
      e.AnsweredBy (c.enabled clock).polled.select := by
  obtain ⟨hq, -, -, hs, hc, -, hlag, -, -⟩ := h
  have hq : (s.accept o a n .dChk).quiet := hq
  have s1 : step (s.accept o a n .dChk) = .next ((s.accept o a n .dChk).on .wT0 s.env) :=
    step_phaseRow hq (congrArg some (if_pos (boundsOk_iff.2 hb)))
  obtain ⟨t0, e1, clock, s5, a1⟩ := enable_steps hq ⟨hs, hc⟩
  have hq : { s.accept o a n .dChk with t0 := t0 }.quiet := hq
  obtain ⟨e2, s9, a2⟩ := poll_steps hq a1 rfl hlag
  have hq : (s.handshaken o a n t0).quiet := hq
  obtain ⟨e3, s10, a3⟩ := step_select hq a2 .dSel .dCmd (by decide)
  exact ⟨t0, e3, clock, .cons s1 (s5.append (s9.append (.one s10))), a3⟩

/-- The data command of operation `o` is the addressed command `opc`, and D_CMD's edge is `good` (10_state.md R30). -/
def DataCommand (o : OpSel) (opc : Byte) (good : State → State) : Prop :=
  ∀ s : State, s.resetLine = false → s.seq = .dCmd → s.op = o → ∀ bs, frame hw s.idr opc s.addr = some bs →
    step s = transmitCommand bs good (State.raise .spiError) s.dropRequest

theorem dataCommand_write : DataCommand .write hw.opcWrite (State.goto .dWr) := fun _ hr hp ho bs hf =>
  (step_dCmd_write hr hp (.inl ho) hf).trans (transmitWrite_of_write bs ho)

theorem dataCommand_clear {o : OpSel} (h : o = .clear ∨ o = .erase) : DataCommand o hw.opcWrite State.startClear :=
  fun _ hr hp ho bs hf => (step_dCmd_write hr hp (.inr (ho ▸ h)) hf).trans (transmitWrite_of_clear bs (ho ▸ h))

theorem dataCommand_read : DataCommand .read hw.opcRead (State.goto .dRd) := fun _ hr hp ho bs hf =>
  (step_dCmd_read hr hp ho hf).trans (transmitRead_of_read bs ho)

/-- The command follows, and the responder takes its address. -/
theorem command_steps {s : State} {c : Chip} {o : OpSel} {opc : Byte} {a n : Word} {good : State → State}
    (hcmd : DataCommand o opc good) (hopc : opc = hw.opcWrite ∨ opc = hw.opcRead) (h : respondsWell s c)
    (hb : a.toNat + n.toNat ≤ s.size.toNat) :
    ∃ t0 e clock, Steps 11 (s.accept o a n .dChk) (good ((s.handshaken o a n t0).on .dCmd e)) ∧
      e.AnsweredBy (c.inData opc a clock) := by
  obtain ⟨t0, e1, clock, s10, a1⟩ := select_steps o h hb
  obtain ⟨hq, -, hu, -, -, -, -, -, hwidth⟩ := h
  have hq : (s.handshaken o a n t0).quiet := hq
  have ha : a.toNat < 256 ^ c.width := address_fits hu hwidth (by omega)
  have hf := frame_of_addressWidth hwidth opc a
  obtain ⟨e2, s11, a2⟩ := step_transmit hq a1 (hcmd ((s.handshaken o a n t0).on .dCmd e1) hq.1 rfl rfl _ hf)
    (Chip.transmit_command (c := (c.enabled clock).polled) hopc ha)
  exact ⟨t0, e2, clock, s10.append (.one s11), a2⟩

/-! ### The end of an operation and the array it leaves -/

theorem memRead_of_respondsWell {s : State} {c : Chip} (h : respondsWell s c) (x : Nat) :
    s.memRead x = if x < c.cap then some (c.mem.read x) else none := by
  obtain ⟨-, -, -, -, hc, -⟩ := h
  rw [State.memRead, hc]

/-- D_DES ends the operation Ok, and the responder still fits. -/
theorem deselect_step {s v : State} {c d : Chip} {e : Env} (h : respondsWell s c) (hq : v.quiet) (hi : v.idr = s.idr)
    (hz : v.size = s.size) (he : e.AnsweredBy d) (hd : d.wf)
    (hp : d.lag = c.lag ∧ d.cap = c.cap ∧ d.width = c.width) :
    ∃ t, step (v.on .dDes e) = .next t ∧ t.seq = .idle ∧ t.result = .ok ∧ t.size = v.size ∧ t.rdata = v.rdata ∧
      respondsWell t d.deselect := by
  obtain ⟨-, -, hu, -, -, -, hlag, hcap, hwidth⟩ := h
  obtain ⟨elag, ecap, ewidth⟩ := hp
  obtain ⟨e', hs, hscript, hchip⟩ := step_dDes hq he
  refine ⟨_, hs, rfl, rfl, rfl, rfl, hq, rfl, (State.usable_congr hi hz).trans hu, hscript, hchip, d.deselect_wf hd,
    elag.trans hlag, (ecap.trans hcap).trans (congrArg _ hz.symm), ?_⟩
  show addressWidth hw (density hw v.idr) = some d.width
  rw [hi, ewidth, hwidth]

/-- `t` is `s` after an operation that ended Ok and stored `bs` from address `a` on, and nothing else. -/
structure StoredOk (s t : State) (a : Nat) (bs : List Byte) : Prop where
  idle : t.seq = .idle
  ok : t.result = .ok
  size : t.size = s.size
  inside : ∀ k, k < bs.length → t.memRead (a + k) = bs[k]?
  outside : ∀ x, x < a ∨ a + bs.length ≤ x → t.memRead x = s.memRead x
  /-- the responder still fits, and the write bracket has cleared its latch (95_test_vectors.md section 4) -/
  responds : ∃ d, respondsWell t d ∧ d.latch = false

/-- The responder after data in a write bracket. -/
def Chip.stored (c : Chip) (bs : List Byte) : Chip :=
  { c with mem := c.mem.store c.ptr bs, ptr := c.ptr + bs.length }

/-- The responder is in a write bracket with its latch set. -/
def Chip.writing (c : Chip) : Prop := c.cs = true ∧ c.cmd = some hw.opcWrite ∧ c.latch = true

theorem Chip.transmit_stored {c : Chip} {bs : List Byte} (h : c.writing) (hf : c.ptr + bs.length ≤ c.cap) :
    c.transmit bs = some (c.stored bs) := by
  obtain ⟨hcs, hcmd, hl⟩ := h
  simp [Chip.transmit, Chip.writeData, Chip.stored, hcs, hcmd, hl, hf]

theorem Chip.stored_cons (c : Chip) (b : Byte) (bs : List Byte) : (c.stored [b]).stored bs = c.stored (b :: bs) := by
  simp [Chip.stored, Memory.store, Nat.add_assoc, Nat.add_comm 1]

/-- The write bracket of WRITE, CLEAR or ERASE ends with its data stored. -/
theorem deselect_storedOk {s v : State} {c : Chip} {a : Word} {clock : List Word} {bs : List Byte} {e : Env}
    (h : respondsWell s c) (hb : a.toNat + bs.length ≤ s.size.toNat) (hq : v.quiet) (hi : v.idr = s.idr)
    (hz : v.size = s.size) (he : e.AnsweredBy ((c.inData hw.opcWrite a clock).stored bs)) :
    ∃ t, step (v.on .dDes e) = .next t ∧ StoredOk s t a.toNat bs := by
  have hc := h
  obtain ⟨-, -, -, -, -, hwf, -, hcap, -⟩ := hc
  have hd : ((c.inData hw.opcWrite a clock).stored bs).wf :=
    ⟨Memory.store_wf bs hwf.1 _, Memory.store_within bs hwf.2 _ (hcap ▸ hb)⟩
  obtain ⟨t, hs, hidle, hok, hsize, -, ht⟩ := deselect_step h hq hi hz he hd ⟨rfl, rfl, rfl⟩
  have read x : t.memRead x = if x < c.cap then some ((c.mem.store a.toNat bs).read x) else none :=
    memRead_of_respondsWell ht x
  refine ⟨t, hs, hidle, hok, hsize.trans hz, fun k hk => ?_, fun x hx => ?_, _, ht, rfl⟩
  · rw [read, if_pos (by omega), Memory.read_store_inside bs _ _ k hk, List.getElem?_eq_getElem hk]
  · rw [read, memRead_of_respondsWell h, Memory.read_store_outside bs _ _ x hx]

/-! ### WRITE (43_data_operations.md R170) -/

/-- Settles O42: the one data transmit stores the whole of WDATA at ADDR. -/
theorem writeStoresOnResponder : Obligations.WriteStoresOnResponder := by
  unfold Obligations.WriteStoresOnResponder
  intro s c a n h hb hl
  have hr := h
  obtain ⟨hq, hidle, hu, -, -, -, -, hcap, -⟩ := hr
  obtain ⟨t0, e1, clock, s11, a1⟩ := command_steps dataCommand_write (.inl rfl) h hb
  have hq : (s.handshaken .write a n t0).quiet := hq
  have hfit : a.toNat + s.wdata.length ≤ c.cap := by omega
  obtain ⟨e2, s12, a2⟩ := step_dWr hq a1 hl (Chip.transmit_stored ⟨rfl, rfl, rfl⟩ hfit)
  obtain ⟨t, s13, ht⟩ := deselect_storedOk h (hl ▸ hb) hq rfl rfl a2
  exact ⟨_, t, State.acceptData_of_usable .write a n hidle hu, s11.append (.cons s12 (.one s13)), ht.idle, ht.ok,
    hl ▸ ht.inside, hl ▸ ht.outside, ht.responds⟩

/-! ### CLEAR (43_data_operations.md R172) -/

/-- The clear loop from `IDX` to `LEN`: one zero byte a step. -/
theorem clear_steps {s : State} {e : Env} {c : Chip} {m : Nat} (hq : s.quiet) (he : e.AnsweredBy c) (hc : c.writing)
    (hi : s.idx.toNat + m = s.len.toNat) (hf : c.ptr + m ≤ c.cap) :
    ∃ e', Steps m (s.on .dClr e) ({ s with idx := s.len }.on .dClr e') ∧
      e'.AnsweredBy (c.stored (List.replicate m 0x00#8)) := by
  induction m generalizing s e c with
  | zero =>
    have hi : s.idx = s.len := BitVec.eq_of_toNat_eq hi
    have hs : { s with idx := s.len } = s := congrArg (fun i => { s with idx := i }) hi.symm
    exact ⟨e, by rw [hs]; exact .zero _, he⟩
  | succ m ih =>
    have hf1 : (c.stored [0x00#8]).ptr + m ≤ c.cap := by simp only [Chip.stored, List.length_singleton]; omega
    have hi1 : (s.idx + 1#32).toNat + m = s.len.toNat := by bv_omega
    obtain ⟨e1, s1, a1⟩ := step_dClr hq he (by bv_omega)
      (Chip.transmit_stored (bs := [0x00#8]) hc (by rw [List.length_singleton]; omega))
    obtain ⟨e2, s2, a2⟩ := ih (s := { s with idx := s.idx + 1#32 }) hq a1 hc hi1 hf1
    rw [Chip.stored_cons] at a2
    exact ⟨e2, .cons s1 s2, a2⟩

/-- CLEAR and ERASE, once accepted, store zero on the whole of their range. -/
theorem clearing_storesOk {s : State} {c : Chip} {o : OpSel} {a n : Word} (h : respondsWell s c)
    (ho : o = .clear ∨ o = .erase) (hb : a.toNat + n.toNat ≤ s.size.toNat) :
    ∃ t, Steps (13 + n.toNat) (s.accept o a n .dChk) t ∧ StoredOk s t a.toNat (List.replicate n.toNat 0x00#8) := by
  have hr := h
  obtain ⟨hq, -, -, -, -, -, -, hcap, -⟩ := hr
  obtain ⟨t0, e1, clock, s11, a1⟩ := command_steps (dataCommand_clear ho) (.inl rfl) h hb
  let v : State := { s.handshaken o a n t0 with idx := 0#32 }
  have hq : v.quiet := hq
  obtain ⟨e2, loop, a2⟩ := clear_steps (s := v) hq a1 ⟨rfl, rfl, rfl⟩ (Nat.zero_add n.toNat) (hcap ▸ hb)
  have hq : { v with idx := n }.quiet := hq
  have leave := step_dClr_end (e := e2) hq rfl
  obtain ⟨t, deselect, ht⟩ := deselect_storedOk h (by rw [List.length_replicate]; exact hb) hq rfl rfl a2
  have steps : Steps (11 + (n.toNat + 2)) _ t := s11.append (loop.append (.cons leave (.one deselect)))
  exact ⟨t, by convert steps using 1; omega, ht⟩

/-- Settles O44: the loop stores LEN zero bytes from ADDR on. -/
theorem clearZeroesOnResponder : Obligations.ClearZeroesOnResponder := by
  unfold Obligations.ClearZeroesOnResponder
  intro s c a n h hb
  have hr := h
  obtain ⟨-, hidle, hu, -⟩ := hr
  obtain ⟨t, steps, ht⟩ := clearing_storesOk h (.inl rfl) hb
  have inside := ht.inside
  have outside := ht.outside
  simp only [List.length_replicate] at inside outside
  refine ⟨_, t, State.acceptData_of_usable .clear a n hidle hu, steps, ht.idle, ht.ok, fun k hk => ?_, outside,
    ht.responds⟩
  rw [inside k hk, List.getElem?_replicate, if_pos hk]

/-! ### READ (43_data_operations.md R171) -/

/-- The responder after a receive of `n` bytes in a read bracket. -/
def Chip.loaded (c : Chip) (n : Nat) : Chip := { c with ptr := c.ptr + n }

theorem Chip.receive_loaded {c : Chip} {n : Nat} (hcs : c.cs = true) (hcmd : c.cmd = some hw.opcRead)
    (hf : c.ptr + n ≤ c.cap) : c.receive n = some (c.mem.load c.ptr n, c.loaded n) := by
  simp [Chip.receive, Chip.loaded, hcs, hcmd, hf, hw]

/-- Settles O43: the one receive loads LEN bytes from ADDR, and no write bracket clears the latch. -/
theorem readLoadsFromResponder : Obligations.ReadLoadsFromResponder := by
  unfold Obligations.ReadLoadsFromResponder
  intro s c a n h hb
  have hr := h
  obtain ⟨hq, hidle, hu, -, -, hwf, -, hcap, -⟩ := hr
  obtain ⟨t0, e1, clock, s11, a1⟩ := command_steps dataCommand_read (.inr rfl) h hb
  have hq : (s.handshaken .read a n t0).quiet := hq
  obtain ⟨e2, s12, a2⟩ := step_dRd hq a1 (Chip.receive_loaded (n := n.toNat) rfl rfl (hcap ▸ hb))
  have hq : { s.handshaken .read a n t0 with rdata := .bytes (c.mem.load a.toNat n.toNat) }.quiet := hq
  obtain ⟨t, s13, ht, hok, -, hdata, hresp⟩ := deselect_step h hq rfl rfl a2 hwf ⟨rfl, rfl, rfl⟩
  refine ⟨_, t, c.mem.load a.toNat n.toNat, State.acceptData_of_usable .read a n hidle hu,
    s11.append (.cons s12 (.one s13)), ht, hok, hdata, Memory.load_length _ _ _, fun k hk => ?_, fun x => ?_,
    _, hresp, rfl⟩
  · rw [memRead_of_respondsWell h, if_pos (by omega)]
    simp [Memory.load, hk]
  · rw [memRead_of_respondsWell hresp, memRead_of_respondsWell h]
    rfl

end Sys2Proof.Machine

/-! O1, O2, O4: the decoder and the encoder are inverse (30_encoding.md R81, R85, R90). -/

namespace Sys2Proof

open Machine
open Config (Cfg hw)

/-! ### Request words (30_encoding.md R90 to R92) -/

/-- No field of a host operation is lost in its request word. -/
theorem decodeReq_of_encode {i : Instr} {req : BitVec 67} (h : encode i = some (.host req)) : decodeReq req = i := by
  cases i with
  | init | read | write | clear | erase | reservedOp0 | reservedOp6 | reservedOp7 =>
    cases h
    simp [decodeReq, reqWord_op, reqWord_addr, reqWord_len]
  | _ => cases h

/-- Every request word is the one of the operation it decodes to. -/
theorem encode_decodeReq (req : BitVec 67) : encode (decodeReq req) = some (.host req) := by
  have word {op : BitVec 3} (h : req.extractLsb' 64 3 = op) :
      reqWord op (req.extractLsb' 32 32) (req.extractLsb' 0 32) = req := h ▸ reqWord_fields req
  simp only [decodeReq]
  split_ifs <;> refine congrArg (some ∘ Code.host) (word ?_)
  case neg => bv_omega
  all_goals assumption

@[simp] theorem Request.selector_reqWord (op : BitVec 3) (a n : Word) (bs : List Byte) :
    (⟨reqWord op a n, bs⟩ : Request).selector = op := reqWord_op op a n

@[simp] theorem Request.length_reqWord (op : BitVec 3) (a n : Word) (bs : List Byte) :
    (⟨reqWord op a n, bs⟩ : Request).length = n := reqWord_len op a n

/-! ### Wire frames (30_encoding.md R81, R85) -/

/-- An address below a field's bound survives the reduction to that field. -/
theorem ofNat_mod_of_lt {n k : Nat} {a : BitVec n} (h : a.toNat < k) : BitVec.ofNat n (a.toNat % k) = a := by
  rw [Nat.mod_eq_of_lt h, BitVec.ofNat_toNat, BitVec.setWidth_eq]

/-- An address field is the bytes of the number it is read as. -/
theorem bigEndianBytes_ofNat {n : Nat} {field : List Byte} (h : field.length = n) :
    bigEndianBytes n (BitVec.ofNat (8 * n) (bigEndianValue field)).toNat = field := by
  subst h
  refine (bigEndianBytes_congr ?_).trans (bigEndianBytes_value field)
  rw [BitVec.toNat_ofNat, Nat.pow_mul]
  exact Nat.mod_mod ..

/-- Decoding inverts encoding wherever the opcodes tell the commands apart and the two address widths differ. -/
theorem decode_encode {c : Cfg} {i : Instr} {code : Code} (hc : admissible c = true) (hi : i.wf c = true)
    (h : encode i c = some code) : decode code c = .instr i := by
  obtain ⟨hn, hs, -, hl, -⟩ := admissible_formats hc
  have distinct : [c.opcWrsr, c.opcRead, c.opcWrite, c.opcRdid, c.opcWren, c.opcRdsr].Nodup := List.nodup_reverse.2 hn
  simp only [List.nodup_cons, List.mem_cons, List.not_mem_nil, or_false, not_or] at distinct
  cases i with
  | init | read | write | clear | erase | reservedOp0 | reservedOp6 | reservedOp7 =>
    cases h
    exact congrArg Decoded.instr (decodeReq_of_encode rfl)
  | wRdsr | wWren | wRdid | wWrsr =>
    cases h
    simp [decode, decodeFrame, distinct]
  | wWriteW3 a | wReadW3 a =>
    cases h
    simp [decode, decodeFrame_field c _ _ _ hs, distinct, ofNat_mod_of_lt (of_decide_eq_true hi)]
  | wWriteW4 a | wReadW4 a =>
    cases h
    simp [decode, decodeFrame_field c _ _ _ (hs.trans hl.le), hl.ne', distinct,
      ofNat_mod_of_lt (of_decide_eq_true hi)]
  | findDensity | idDecode | aw | getId | getWel | setWel | frame | bounds => cases h

/-- Settles O1: a frame is told by its length and its opcode, a request word by its fields. -/
theorem decodeOfEncode : Obligations.DecodeOfEncode := by
  unfold Obligations.DecodeOfEncode
  exact ⟨fun _ _ => decode_encode (by decide), fun _ _ _ => decode_encode⟩

/-- A frame that decodes is the frame of the command it decodes to. -/
theorem encode_of_decodeFrame {bs : List Byte} {i : Instr} (h : decodeFrame bs = .instr i) :
    encode i = some (.wire bs) := by
  unfold decodeFrame at h
  split at h
  case h_1 => cases h
  case h_2 b =>
    split_ifs at h with hb hb hb hb
    case neg => exact absurd h (rejectFrame_ne_instr _ _ _ _)
    all_goals
      cases h
      rw [hb]
      rfl
  case h_3 b field _ =>
    have addressed {opc : Byte} {n : Nat} (hb : b = opc) (hf : field.length = n) :
        opc :: bigEndianBytes n (BitVec.ofNat (8 * n) (bigEndianValue field)).toNat = b :: field := by
      rw [hb, bigEndianBytes_ofNat hf]
    split_ifs at h with hs hb hb hl hb hb
    · cases h; exact congrArg (some ∘ Code.wire) (addressed (n := 3) hb hs)
    · cases h; exact congrArg (some ∘ Code.wire) (addressed (n := 3) hb hs)
    · exact absurd h (rejectFrame_ne_instr _ _ _ _)
    · cases h; exact congrArg (some ∘ Code.wire) (addressed (n := 4) hb hl)
    · cases h; exact congrArg (some ∘ Code.wire) (addressed (n := 4) hb hl)
    · exact absurd h (rejectFrame_ne_instr _ _ _ _)
    · exact absurd h (rejectFrame_ne_instr _ _ _ _)

/-- The first byte alone rejects a frame outside the opcode map (30_encoding.md R89). -/
theorem decodeFrame_of_not_known {b : Byte} (h : knownOpcode b = false) (rest : List Byte) :
    decodeFrame (b :: rest) = .rejected (.unknownOpcode b) := by
  have reject n : rejectFrame b n = .rejected (.unknownOpcode b) := by simp [rejectFrame, h]
  have other : ∀ opc ∈ opcodes hw, b ≠ opc := by
    rintro opc ho rfl
    simp [knownOpcode, ho] at h
  simp only [opcodes, List.forall_mem_cons] at other
  cases rest with
  | nil => simp [decodeFrame, other, reject]
  | cons x xs => simp [decodeFrame, other, reject]

/-- Settles O2: each branch of the decoder that answers an instruction fixes the opcode and the field, and none
answers for another first byte. -/
theorem encodeOfDecode : Obligations.EncodeOfDecode := by
  unfold Obligations.EncodeOfDecode
  exact ⟨fun _ _ => encode_of_decodeFrame, encode_decodeReq, fun _ rest h => decodeFrame_of_not_known h rest⟩

/-! ### The textual host program (30_encoding.md R94) -/

/-- Settles O4: a line's request is the encoding of its operation, and a write line's byte count fits LEN. -/
theorem hostLinesAreRequests : Obligations.HostLinesAreRequests := by
  unfold Obligations.HostLinesAreRequests
  intro l hl
  cases l with
  | init | read a n | clear a n | erase =>
    exact ⟨by simp [Line.request, Request.wf], decodeReq_of_encode rfl⟩
  | write a bs =>
    have hn : (BitVec.ofNat 32 bs.length).toNat = bs.length := by
      rw [BitVec.toNat_ofNat, Nat.mod_eq_of_lt (of_decide_eq_true hl)]
    exact ⟨by simp [Line.request, Request.wf, hn], _, hn, decodeReq_of_encode rfl, rfl⟩

end Sys2Proof

/-! O5, O6, O7, O8, O24: what the encoded commands do, and the frame that carries an address. -/

namespace Sys2Proof.Machine

open Config (Cfg hw)

/-! ### Refusals and issued opcodes (30_encoding.md R88, R89, R92) -/

/-- A request with a reserved selector decodes to a host operation that is refused (30_encoding.md R92). -/
theorem exec_decodeReq_reserved {r : Request} (h : r.selector = 0#3 ∨ r.selector = 6#3 ∨ r.selector = 7#3)
    (s : State) : exec (decodeReq r.req) s = .refused (.reservedSelector r.selector) := by
  have hop : r.req.extractLsb' 64 3 = r.selector := rfl
  rcases h with h | h | h <;> simp only [decodeReq, hop, h] <;> rfl

/-- Settles O5: an idle controller executes the request it finds, whatever its selector. -/
theorem reservedSelectorsRefused : Obligations.ReservedSelectorsRefused := by
  unfold Obligations.ReservedSelectorsRefused
  refine ⟨fun _ _ _ => rfl, fun _ _ _ => rfl, fun _ _ _ => rfl, fun s r hr hi hreq hres => ?_⟩
  rw [step_idle_request hr hi (takeRequest_presented hreq), exec_decodeReq_reserved hres]

/-- The data commands are W.WRITE and W.READ (10_state.md R30, row D_CMD). -/
theorem opcode_write_or_read {o : OpSel} {opc : Byte} (h : o.opcode hw = some opc) : opc = 0x02#8 ∨ opc = 0x03#8 := by
  cases o with
  | unset | init => cases h
  | write | clear | erase => cases h; exact .inl rfl
  | read => cases h; exact .inr rfl

theorem frame_cons {c : Cfg} {r : IdReg} {opc : Byte} {a : Word} {bs : List Byte} (h : frame c r opc a = some bs) :
    ∃ rest, bs = opc :: rest := by
  obtain ⟨w, -, rfl⟩ := Option.map_eq_some_iff.1 h
  exact ⟨_, rfl⟩

/-- Settles O6: the one call of a command phase is the transmit of the table's action column. -/
theorem onlyFiveOpcodesIssued : Obligations.OnlyFiveOpcodesIssued := by
  unfold Obligations.OnlyFiveOpcodesIssued
  refine ⟨fun _ => rfl, fun s t hr hp hs => ?_⟩
  have hcall := oneCallPerStep s t hr hs
  rw [if_neg (by rcases hp with hp | hp | hp | hp <;> simp [hp])] at hcall
  obtain ⟨c, hc, hh⟩ := hcall
  rcases hp with hp | hp | hp | hp <;> simp only [callOf, hp] at hc
  case inr.inr.inr =>
    obtain ⟨opc, bs, ok, ho, hf, rfl⟩ := hc
    obtain ⟨rest, rfl⟩ := frame_cons hf
    exact ⟨opc, rest, ok, hh, by rcases opcode_write_or_read ho with rfl | rfl <;> decide⟩
  all_goals
    obtain ⟨ok, rfl⟩ := hc
    exact ⟨_, [], ok, hh, by decide⟩

/-! ### One meaning per wire command (30_encoding.md R86, R87, R96 to R98) -/

section

variable (s : State)

theorem exec_wRdsr : exec .wRdsr s =
    .next (s.onAck (s.env.transmit [0x05#8]) (State.goto .pRx) (State.goto .pTime)) := rfl
theorem exec_wWren : exec .wWren s =
    .next (s.onAck (s.env.transmit [0x06#8]) (State.goto .wDes) (State.raise .spiError)) := rfl
theorem exec_wRdid : exec .wRdid s =
    .next (s.onAck (s.env.transmit [0x9F#8]) (State.goto .iRx) (State.raise .spiError)) := rfl
theorem exec_wWriteW3 (a : BitVec 24) :
    exec (.wWriteW3 a) s = transmitWrite (0x02#8 :: bigEndianBytes 3 a.toNat) s := rfl
theorem exec_wWriteW4 (a : BitVec 32) :
    exec (.wWriteW4 a) s = transmitWrite (0x02#8 :: bigEndianBytes 4 a.toNat) s := rfl
theorem exec_wReadW3 (a : BitVec 24) :
    exec (.wReadW3 a) s = transmitRead (0x03#8 :: bigEndianBytes 3 a.toNat) s := rfl
theorem exec_wReadW4 (a : BitVec 32) :
    exec (.wReadW4 a) s = transmitRead (0x03#8 :: bigEndianBytes 4 a.toNat) s := rfl

end

/-- Settles O7: the two edges of each command's one transmit. -/
theorem oneByteCommands : Obligations.OneByteCommands := by
  unfold Obligations.OneByteCommands
  exact fun s => ⟨exec_wRdsr s, exec_wWren s, exec_wRdid s⟩

/-- Settles O8: the transmit of the frame, byte by byte, with the edge of the operation that issues it. -/
theorem addressedCommands : Obligations.AddressedCommands := by
  unfold Obligations.AddressedCommands
  refine fun s => ⟨fun ho => ⟨fun a => ?_, fun a => ?_⟩, fun ho => ⟨fun a => ?_, fun a => ?_⟩⟩
  · rw [exec_wWriteW3, bigEndianBytes_three, transmitWrite_eq_dataCommandEdge ho]
  · rw [exec_wWriteW4, bigEndianBytes_four, transmitWrite_eq_dataCommandEdge ho]
  · rw [exec_wReadW3, bigEndianBytes_three, transmitRead_eq_dataCommandEdge ho]
  · rw [exec_wReadW4, bigEndianBytes_four, transmitRead_eq_dataCommandEdge ho]

/-! ### The address of a usable part (30_encoding.md R82 to R84) -/

/-- No capacity of the table exceeds 1 MiB (40_density_and_id.md R110). -/
theorem size_le_of_usable {s : State} (h : s.usable = true) : s.size.toNat ≤ 1048576 := by
  have table : ∀ cap ∈ hw.densityTable.map (·.2), cap.toNat ≤ 1048576 := by simp [hw, Config.densityTable]
  exact table _ (findDensity_capacity ((State.usable_iff s).1 h).1)

/-- A usable part has a width, and three address bytes only up to 64 KiB (40_density_and_id.md R114). -/
theorem addressWidth_of_usable {s : State} (h : s.usable = true) :
    (addressWidth hw (density hw s.idr) = some 3 ∧ s.size.toNat ≤ 65536) ∨
      addressWidth hw (density hw s.idr) = some 4 := by
  rw [addressWidth, ((State.usable_iff s).1 h).1, Option.map_some]
  split
  · next hz => exact .inl ⟨rfl, hz⟩
  · exact .inr rfl

/-- Settles O24: the address is at most SIZE, and SIZE fits the part's address width. -/
theorem frameCarriesWholeAddress : Obligations.FrameCarriesWholeAddress := by
  unfold Obligations.FrameCarriesWholeAddress
  intro s opc hu hb
  have hsize := size_le_of_usable hu
  have carries {w : Nat} (haw : addressWidth hw (density hw s.idr) = some w) :
      frame hw s.idr opc s.addr = some (opc :: bigEndianBytes w s.addr.toNat) ∧
        bigEndianValue (bigEndianBytes w s.addr.toNat) = s.addr.toNat := by
    have hfits : s.addr.toNat < 256 ^ w := address_fits hu haw (by omega)
    exact ⟨frame_of_addressWidth haw opc s.addr, by rw [bigEndianValue_bytes, Nat.mod_eq_of_lt hfits]⟩
  rcases addressWidth_of_usable hu with ⟨haw, hz⟩ | haw
  · obtain ⟨hf, hv⟩ := carries haw
    exact ⟨_, hf, hv, by simpa, .inl ⟨by simp, by omega⟩⟩
  · obtain ⟨hf, hv⟩ := carries haw
    exact ⟨_, hf, hv, by simpa, .inr ⟨by simp, by omega⟩⟩

end Sys2Proof.Machine

/-! O10, O11, O12, O14: the density table, the fields of IDR and the address width (40_density_and_id.md R110 to R114). -/

namespace Sys2Proof.Machine

open Config (Cfg hw)

/-! ### The table scan (40_density_and_id.md R110, R111) -/

/-- The scan is the library's association-list lookup. -/
theorem lookupDensity_eq_lookup (d : BitVec 5) (t : List (BitVec 5 × Word)) : lookupDensity d t = t.lookup d := by
  induction t with
  | nil => rfl
  | cons e rest ih =>
    obtain ⟨code, cap⟩ := e
    by_cases h : code = d
    · subst h
      simp [lookupDensity]
    · have hd : (d == code) = false := beq_false_of_ne (Ne.symm h)
      simp only [lookupDensity, if_neg h, List.lookup_cons, hd, ih]

section

variable {c : Cfg} {d : BitVec 5} {cap : Word}

theorem findDensity_eq_none_iff : findDensity c d = none ↔ ∀ e ∈ c.densityTable, e.1 ≠ d := by
  rw [findDensity, lookupDensity_eq_lookup, List.lookup_eq_none_iff]
  simp only [bne_iff_ne, ne_comm]

/-- The answer is the capacity of the first row with the code. -/
theorem findDensity_eq_some_iff :
    findDensity c d = some cap ↔
      ∃ before rest, c.densityTable = before ++ (d, cap) :: rest ∧ ∀ e ∈ before, e.1 ≠ d := by
  rw [findDensity, lookupDensity_eq_lookup, List.lookup_eq_some_iff]
  simp only [bne_iff_ne, ne_comm]

/-- With distinct codes no row hides another. -/
theorem findDensity_eq_some_iff_mem (h : (c.densityTable.map (·.1)).Nodup) :
    findDensity c d = some cap ↔ (d, cap) ∈ c.densityTable := by
  refine ⟨lookupDensity_mem, fun hm => ?_⟩
  obtain ⟨before, rest, ht⟩ := List.append_of_mem hm
  refine findDensity_eq_some_iff.2 ⟨before, rest, ht, fun e he hd => ?_⟩
  rw [ht, List.map_append] at h
  exact List.disjoint_of_nodup_append h (List.mem_map_of_mem he) (by simp [hd])

end

/-- Settles O10: the lookup's first match, and any match where the codes are distinct. -/
theorem findDensityResult : Obligations.FindDensityResult := by
  unfold Obligations.FindDensityResult
  exact ⟨fun _ _ => rfl, fun _ _ => findDensity_eq_none_iff, fun _ _ _ => findDensity_eq_some_iff,
    fun _ h _ _ => findDensity_eq_some_iff_mem h⟩

/-- Settles O11: nine rows and 32 codes, each looked at. -/
theorem densityTableOfThisHardware : Obligations.DensityTableOfThisHardware := by
  unfold Obligations.DensityTableOfThisHardware
  exact ⟨by decide, rfl, by decide⟩

/-! ### The fields of IDR (40_density_and_id.md R112, 10_state.md R22) -/

/-- The manufacturer code is byte `b0` (the spec's decision D5). -/
theorem mfr_hw (r : IdReg) : mfr hw r = r.b0 := rfl

/-- The density code is `b2[4:0]` (the spec's decision D5). -/
theorem density_hw (r : IdReg) : density hw r = r.b2.extractLsb' 0 5 := rfl

theorem IdReg.view_toNat (r : IdReg) :
    r.view.toNat = r.b3.toNat * 2 ^ 24 + r.b2.toNat * 2 ^ 16 + r.b1.toNat * 2 ^ 8 + r.b0.toNat := by
  have h : r.view.toNat = ((r.b3.toNat <<< 8 ||| r.b2.toNat) <<< 8 ||| r.b1.toNat) <<< 8 ||| r.b0.toNat := by
    simp only [IdReg.view, BitVec.toNat_append]
  rw [h, ← Nat.shiftLeft_add_eq_or_of_lt r.b0.isLt, ← Nat.shiftLeft_add_eq_or_of_lt r.b1.isLt,
    ← Nat.shiftLeft_add_eq_or_of_lt r.b2.isLt]
  simp only [Nat.shiftLeft_eq]
  omega

/-- Settles O12: a field of the integer view is the byte at its place. -/
theorem idDecodeFields : Obligations.IdDecodeFields := by
  unfold Obligations.IdDecodeFields
  intro s
  have h0 := s.idr.b0.isLt
  have h1 := s.idr.b1.isLt
  have h2 := s.idr.b2.isLt
  have h3 := s.idr.b3.isLt
  refine ⟨rfl, ?_, ?_, ?_, ?_, ?_, ?_⟩
  all_goals
    apply BitVec.eq_of_toNat_eq
    simp only [mfr_hw, density_hw, BitVec.extractLsb'_toNat, IdReg.view_toNat, Nat.shiftRight_eq_div_pow]
    omega

/-! ### The address width (40_density_and_id.md R114) -/

theorem addressWidth_of_findDensity {d : BitVec 5} {cap : Word} (h : findDensity hw d = some cap) :
    addressWidth hw d = some (if cap.toNat ≤ 65536 then 3 else 4) := by
  rw [addressWidth, h]
  rfl

/-- Settles O14: the width follows the capacity, and there is none without a capacity. -/
theorem addressWidthSelector : Obligations.AddressWidthSelector := by
  unfold Obligations.AddressWidthSelector
  refine ⟨fun _ _ => rfl, fun d cap h hc => ?_, fun d cap h hc => ?_, fun d h => ?_⟩
  · rw [addressWidth_of_findDensity h, if_pos hc]
  · rw [addressWidth_of_findDensity h, if_neg (Nat.not_le.2 hc)]
  · rw [addressWidth, h, Option.map_none]

end Sys2Proof.Machine

/-! O15: GET_ID's four calls; the exchange has the form of GET_WEL's (40_density_and_id.md R116, 41_wel_handshake.md R131). -/

namespace Sys2Proof.Machine

open Config (hw)

/-- A command byte and its answer in one bracket: select, transmit `cmd`, receive `n` bytes, deselect. -/
def exchange (cmd : List Byte) (n : Nat) (store : List Byte → State → State) (spoil : State → State) (s : State) :
    Result × State :=
  andThen (andThen (andThen (callCs Env.select s) (callTx cmd)) (callRx n store spoil)) (callCs Env.deselect)

/-- The ways an exchange ends, by its last call: the environment `e` that the calls leave, what they were, and the
array, which they keep. -/
inductive Exchanged (cmd : List Byte) (n : Nat) (store : List Byte → State → State) (spoil : State → State)
    (s : State) : Result × State → Prop where
  | select (e : Env) (hh : e.history = .sel false :: s.env.history) (ha : s.env.KeepsArray e) :
    Exchanged cmd n store spoil s (.csError, s.setEnv e)
  | transmit (e : Env) (hh : e.history = .tx cmd false :: .sel true :: s.env.history) (ha : s.env.KeepsArray e) :
    Exchanged cmd n store spoil s (.spiError, s.setEnv e)
  | receive (e : Env) (hh : e.history = .rx n none :: .tx cmd true :: .sel true :: s.env.history)
    (ha : s.env.KeepsArray e) : Exchanged cmd n store spoil s (.spiError, spoil (s.setEnv e))
  | deselect (bs : List Byte) (d e : Env) (ok : Bool) (hl : bs.length = n)
    (hh : e.history = .des ok :: .rx n (some bs) :: .tx cmd true :: .sel true :: s.env.history)
    (ha : s.env.KeepsArray e) :
    Exchanged cmd n store spoil s (if ok then .ok else .csError, (store bs (s.setEnv d)).setEnv e)

/-- Whatever the answers, an exchange ends in one of these ways; only its command byte is transmitted, so the array
is kept (20_memory.md R58). -/
theorem exchange_exchanged {cmd : List Byte} {n : Nat} {store : List Byte → State → State} {spoil : State → State}
    (hstore : ∀ bs u, (store bs u).env = u.env) (s : State) :
    Exchanged cmd n store spoil s (exchange cmd n store spoil s) := by
  unfold exchange
  rcases callCs_cases Env.select s with ⟨h1, e1⟩ | ⟨h1, e1⟩
  · have k2 := Env.select_transmit_keepsArray s.env h1 cmd
    rw [e1, andThen_mk_ok]
    rcases callTx_cases cmd (s.setEnv s.env.select.2) with ⟨h2, e2⟩ | ⟨h2, e2⟩ <;> rw [State.setEnv_env] at h2
    · have k3 := k2.trans (Env.receive_keepsArray _ n)
      rw [e2, andThen_mk_ok]
      rcases callRx_cases n store spoil ((s.setEnv s.env.select.2).setEnv (s.env.select.2.transmit cmd).2) with
        ⟨bs, h3, hl, e3⟩ | ⟨h3, e3⟩ <;> rw [State.setEnv_env] at h3
      · rw [State.setEnv_env, e3, andThen_mk_ok]
        refine .deselect bs _ _ _ hl ?_ ?_ <;> rw [hstore]
        · simp [h1, h2, h3]
        · exact k3.trans (Env.deselect_keepsArray _)
      · rw [State.setEnv_env, e3, andThen_mk_spiError]
        exact .receive _ (by simp [h1, h2, h3]) k3
    · rw [e2, andThen_mk_spiError, andThen_mk_spiError]
      exact .transmit _ (by simp [h1, h2]) k2
  · rw [e1, andThen_mk_csError, andThen_mk_csError, andThen_mk_csError]
    exact .select _ (by simp [h1]) s.env.select_keepsArray

/-- GET_ID is the exchange of 0x9F for four bytes (40_density_and_id.md R116). -/
theorem getId_exchanged (s : State) : Exchanged [0x9F#8] 4 State.setIdr State.anyIdr s (getId s) :=
  exchange_exchanged (fun bs u => u.setIdr_env bs) s

/-- GET_WEL's four calls are the exchange of 0x05 for one byte (41_wel_handshake.md R131). -/
theorem statusExchange_exchanged (s : State) : Exchanged [0x05#8] 1 State.setSr State.anySr s (statusExchange s) :=
  exchange_exchanged (fun bs u => u.setSr_env bs) s

/-- Settles O15: the exchange's ways to end, with the four bytes received in IDR. -/
theorem getIdExchange : Obligations.GetIdExchange := by
  unfold Obligations.GetIdExchange
  intro s
  have h := getId_exchanged s
  refine ⟨(getId s).2.answer (.status (getId s).1), rfl, ?_⟩
  generalize getId s = p at h ⊢
  cases h with
  | select e hh ha => exact ⟨rfl, .of_keepsArray ha, .inl ⟨rfl, rfl, hh⟩⟩
  | transmit e hh ha => exact ⟨rfl, .of_keepsArray ha, .inr (.inl ⟨rfl, rfl, hh⟩)⟩
  | receive e hh ha => exact ⟨rfl, .of_keepsArray ha, .inr (.inr (.inl ⟨rfl, hh⟩))⟩
  | deselect bs d e ok hl hh ha =>
    obtain ⟨b0, b1, b2, b3, rfl⟩ := List.length_eq_four.1 hl
    refine ⟨rfl, .of_keepsArray ha, .inr (.inr (.inr ⟨b0, b1, b2, b3, rfl, ?_⟩))⟩
    cases ok with
    | false => exact .inl ⟨rfl, hh⟩
    | true => exact .inr ⟨rfl, hh⟩

end Sys2Proof.Machine

/-! O13: the bits of IDR that no field covers (40_density_and_id.md R112, 10_state.md R27). -/

namespace Sys2Proof.Machine

open Config (hw)

/-- Two identifications with the same manufacturer and density fields. -/
structure IdReg.SameFields (q r : IdReg) : Prop where
  mfr : mfr hw q = mfr hw r
  density : density hw q = density hw r

/-- IDR replaced. -/
def State.withIdr (r : IdReg) (s : State) : State := { s with idr := r }

/-- An outcome whose next state, if there is one, is changed by `f`. -/
def mapNext (f : State → State) : Host.Outcome State Fault Refusal → Host.Outcome State Fault Refusal
  | .next s => .next (f s)
  | .fault why => .fault why
  | .refused why => .refused why

section

variable (f : State → State)

@[simp] theorem mapNext_next (s : State) : mapNext f (.next s) = .next (f s) := rfl
@[simp] theorem mapNext_refused (why : Refusal) : mapNext f (.refused why) = .refused why := rfl

end

/-! ### Updates that do not write IDR -/

namespace State

variable (r : IdReg) (s : State)

@[simp] theorem withIdr_idr : (s.withIdr r).idr = r := rfl
@[simp] theorem withIdr_size : (s.withIdr r).size = s.size := rfl
@[simp] theorem withIdr_op : (s.withIdr r).op = s.op := rfl
@[simp] theorem withIdr_addr : (s.withIdr r).addr = s.addr := rfl
@[simp] theorem withIdr_len : (s.withIdr r).len = s.len := rfl
@[simp] theorem withIdr_seq : (s.withIdr r).seq = s.seq := rfl
@[simp] theorem withIdr_t0 : (s.withIdr r).t0 = s.t0 := rfl
@[simp] theorem withIdr_idx : (s.withIdr r).idx = s.idx := rfl
@[simp] theorem withIdr_env : (s.withIdr r).env = s.env := rfl
@[simp] theorem withIdr_goto (p : Phase) : (s.withIdr r).goto p = (s.goto p).withIdr r := rfl
@[simp] theorem withIdr_setEnv (e : Env) : (s.withIdr r).setEnv e = (s.setEnv e).withIdr r := rfl
@[simp] theorem withIdr_finishOk : (s.withIdr r).finishOk = s.finishOk.withIdr r := rfl
@[simp] theorem withIdr_setSr (bs : List Byte) : (s.withIdr r).setSr bs = (s.setSr bs).withIdr r := rfl
@[simp] theorem withIdr_anySr : (s.withIdr r).anySr = s.anySr.withIdr r := rfl
@[simp] theorem withIdr_setSize (cap : Word) : (s.withIdr r).setSize cap = (s.setSize cap).withIdr r := rfl
@[simp] theorem withIdr_setRdata (bs : List Byte) : (s.withIdr r).setRdata bs = (s.setRdata bs).withIdr r := rfl
@[simp] theorem withIdr_startClear : (s.withIdr r).startClear = s.startClear.withIdr r := rfl
@[simp] theorem withIdr_bumpIdx : (s.withIdr r).bumpIdx = s.bumpIdx.withIdr r := rfl
@[simp] theorem withIdr_dropRequest : (s.withIdr r).dropRequest = s.dropRequest.withIdr r := rfl
@[simp] theorem withIdr_accept (o : OpSel) (a n : Word) (p : Phase) :
    (s.withIdr r).accept o a n p = (s.accept o a n p).withIdr r := rfl
@[simp] theorem withIdr_raise (e : Result) : (s.withIdr r).raise e = (s.raise e).withIdr r := by
  rw [raise_eq, raise_eq]; rfl

/-- An ok-or-fail call treats IDR as its edges do. -/
theorem withIdr_onAck (call : Bool × Env) {good bad : State → State}
    (hg : ∀ u : State, good (u.withIdr r) = (good u).withIdr r)
    (hb : ∀ u : State, bad (u.withIdr r) = (bad u).withIdr r) :
    (s.withIdr r).onAck call good bad = (s.onAck call good bad).withIdr r := by
  simp only [onAck, withIdr_setEnv, hg, hb, apply_ite (withIdr r)]

theorem transmitCommand_withIdr (bs : List Byte) {good bad : State → State}
    (hg : ∀ u : State, good (u.withIdr r) = (good u).withIdr r)
    (hb : ∀ u : State, bad (u.withIdr r) = (bad u).withIdr r) :
    transmitCommand bs good bad (s.withIdr r) = mapNext (withIdr r) (transmitCommand bs good bad s) :=
  congrArg Host.Outcome.next (s.withIdr_onAck r _ hg hb)

theorem transmitWrite_withIdr (bs : List Byte) :
    transmitWrite bs (s.withIdr r) = mapNext (withIdr r) (transmitWrite bs s) := by
  cases ho : s.op <;> simp only [transmitWrite, withIdr_op, ho, mapNext_refused]
  case write | clear | erase => exact transmitCommand_withIdr r s bs (by simp) (by simp)

theorem transmitRead_withIdr (bs : List Byte) :
    transmitRead bs (s.withIdr r) = mapNext (withIdr r) (transmitRead bs s) := by
  cases ho : s.op <;> simp only [transmitRead, withIdr_op, ho, mapNext_refused]
  case read => exact transmitCommand_withIdr r s bs (by simp) (by simp)

/-- Taking a request neither reads nor writes IDR (10_state.md R32). -/
theorem takeRequest_withIdr : (s.withIdr r).takeRequest = s.takeRequest.map (Prod.map id (withIdr r)) := by
  unfold takeRequest
  cases hr : s.request with
  | some q => simp [withIdr, hr]
  | none => cases hp : s.program <;> simp [withIdr, hr, hp]

end State

section

variable {s : State} {r : IdReg} (h : r.SameFields s.idr)

include h

/-! ### The fields decide (40_density_and_id.md R111 to R114) -/

theorem usable_withIdr : (s.withIdr r).usable = s.usable := by
  simp only [State.usable, usableRegs, manufacturerOk, State.withIdr_idr, State.withIdr_size, h.mfr, h.density]

theorem command_withIdr : (s.withIdr r).command = s.command := by
  have hf opc a : frame hw r opc a = frame hw s.idr opc a := by rw [frame, frame, h.density]
  simp only [State.command, State.withIdr_seq, State.withIdr_op, State.withIdr_idr, State.withIdr_addr, hf]

theorem acceptData_withIdr (o : OpSel) (a n : Word) :
    (s.withIdr r).acceptData o a n = mapNext (State.withIdr r) (s.acceptData o a n) := by
  simp [State.acceptData, usable_withIdr h, apply_ite (mapNext (State.withIdr r))]

/-- I_RX writes IDR anew; every other row passes it on, and reads at most its fields. -/
theorem phaseRow_withIdr (hn : s.seq ≠ .iRx) : phaseRow (s.withIdr r) = (phaseRow s).map (State.withIdr r) := by
  have hm : manufacturerOk hw r = manufacturerOk hw s.idr := by rw [manufacturerOk, manufacturerOk, h.mfr]
  cases hp : s.seq
  case iRx => exact absurd hp hn
  all_goals simp only [phaseRow, State.withIdr_seq, hp, Option.map_none, Option.map_some, Option.some.injEq]
  case iSel | iDes | wSel | wDes | pSel | dSel | dDes | dWr =>
    exact s.withIdr_onAck r _ (by simp) (by simp)
  case wT0 => rfl
  case pDes =>
    have edge (u : State) : welEdge hw (u.withIdr r) = (welEdge hw u).withIdr r :=
      (apply_ite (State.withIdr r) (welSet hw u.sr = true) (u.goto .dSel) (u.goto .pTime)).symm
    exact s.withIdr_onAck r _ edge (by simp)
  case dChk => simp [rowDChk, apply_ite (State.withIdr r)]
  case pTime => simp [rowPTime, apply_ite (State.withIdr r)]
  case dClr =>
    have hc := s.withIdr_onAck r (s.env.transmit [hw.clearByte]) (good := fun t => t.bumpIdx.goto .dClr)
      (bad := State.raise .spiError) (by simp) (by simp)
    simp [rowDClr, hc, apply_ite (State.withIdr r)]
  case iDec =>
    simp only [rowIDec, State.withIdr_idr, h.density, hm]
    split <;> simp [apply_ite (State.withIdr r)]
  case pRx =>
    simp only [rowPRx, State.withIdr_env]
    split <;> simp
  case dRd =>
    simp only [rowDRd, State.withIdr_env, State.withIdr_len]
    split <;> simp

/-- A host operation or a wire command reads at most the fields of IDR, and writes none of it. -/
theorem exec_withIdr {i : Instr} (hi : i.space ≠ .micro) :
    exec i (s.withIdr r) = mapNext (State.withIdr r) (exec i s) := by
  cases i with
  | findDensity | idDecode | aw | getId | getWel | setWel | frame | bounds => exact absurd rfl hi
  | reservedOp0 | reservedOp6 | reservedOp7 | wWrsr => rfl
  | wRdsr | wWren | wRdid => exact State.transmitCommand_withIdr r s _ (by simp) (by simp)
  | wWriteW3 | wWriteW4 => exact State.transmitWrite_withIdr r s _
  | wReadW3 | wReadW4 => exact State.transmitRead_withIdr r s _
  | read => exact acceptData_withIdr h .read _ _
  | write => exact acceptData_withIdr h .write _ _
  | clear => exact acceptData_withIdr h .clear _ _
  | erase => exact acceptData_withIdr h .erase _ _
  | init => by_cases hs : s.seq = .idle <;> simp [exec, execInit, hs]

/-! ### A step with another IDR (10_state.md R27) -/

theorem stepIdle_withIdr : stepIdle (s.withIdr r) = mapNext (State.withIdr r) (stepIdle s) := by
  rw [stepIdle, stepIdle, State.takeRequest_withIdr]
  cases hr : s.takeRequest with
  | none => rfl
  | some p =>
    obtain ⟨q, u⟩ := p
    have hu : r.SameFields u.idr := by rw [takeRequest_eq hr]; exact h
    exact exec_withIdr hu (by simp [decodeReq_space])

theorem stepBusy_withIdr (hn : s.seq ≠ .iRx) : stepBusy (s.withIdr r) = mapNext (State.withIdr r) (stepBusy s) := by
  rw [stepBusy, stepBusy, phaseRow_withIdr h hn]
  cases phaseRow s with
  | some t => rfl
  | none =>
    show stepCommand (s.withIdr r) = mapNext (State.withIdr r) (stepCommand s)
    rw [stepCommand, stepCommand, command_withIdr h]
    cases s.command with
    | none => rfl
    | some bs =>
      show runFrame bs (s.withIdr r) = mapNext (State.withIdr r) (runFrame bs s)
      rw [runFrame, runFrame]
      cases hd : decodeFrame bs with
      | rejected why => rfl
      | instr i => exact exec_withIdr h (by simp [decodeFrame_space hd])

/-- A step that does not write IDR passes it on. -/
theorem step_withIdr (hr : s.resetLine = false) (hn : s.seq ≠ .iRx) :
    step (s.withIdr r) = mapNext (State.withIdr r) (step s) := by
  by_cases hi : s.seq = .idle
  · rw [step_idle hr hi, step_idle (s := s.withIdr r) hr hi, stepIdle_withIdr h]
  · rw [step_busy hr hi, step_busy (s := s.withIdr r) hr hi, State.withIdr_dropRequest]
    exact stepBusy_withIdr (s := s.dropRequest) h hn

end

/-- A reset and I_RX write IDR and do not read it. -/
theorem step_withIdr_of_writes_idr {s : State} (h : s.resetLine = true ∨ s.seq = .iRx) (r : IdReg) :
    step (s.withIdr r) = step s := by
  cases hr : s.resetLine with
  | true => rw [step_reset hr, step_reset (s := s.withIdr r) hr]; rfl
  | false =>
    have hp : s.seq = .iRx := h.resolve_left (by simp [hr])
    have hi : s.seq ≠ .idle := by simp [hp]
    have row : phaseRow s.dropRequest = some (rowIRx s.dropRequest) := by simp [phaseRow, hp]
    have row' : phaseRow (s.withIdr r).dropRequest = some (rowIRx (s.withIdr r).dropRequest) := by simp [phaseRow, hp]
    rw [step_row hr hi row, step_row (s := s.withIdr r) hr hi row']
    rfl

/-- Settles O13: a step replaces IDR whatever it was, or reads at most its fields and passes it on. -/
theorem ignoredIdBitsNeverMatter : Obligations.IgnoredIdBitsNeverMatter := by
  unfold Obligations.IgnoredIdBitsNeverMatter
  intro s r hb0 hb2
  by_cases hi : s.resetLine = true ∨ s.seq = .iRx
  · have hs : step { s with idr := r } = step s := step_withIdr_of_writes_idr hi r
    rw [hs]
    exact ⟨fun t ht => ⟨t.idr, ht, .inl rfl⟩, fun why => id⟩
  · obtain ⟨hr, hn⟩ := not_or.1 hi
    have hr : s.resetLine = false := by simpa using hr
    have hs : step { s with idr := r } = mapNext (State.withIdr r) (step s) := step_withIdr ⟨hb0, hb2⟩ hr hn
    rw [hs]
    refine ⟨fun t ht => ⟨r, by rw [ht]; rfl, .inr ⟨?_, rfl⟩⟩, fun why ht => by rw [ht]; rfl⟩
    exact not_imp_comm.1 (registerWriters s t hr ht).1 hn

end Sys2Proof.Machine

/-! O16, O17, O20: GET_WEL, SET_WEL and the clock check, by the ways they end (41_wel_handshake.md R131 to R135). -/

namespace Sys2Proof.Machine

open Config (hw)

/-! ### The clock check (41_wel_handshake.md R134) -/

/-- The elapsed time of the timeout condition as a number: reduced modulo 2^32. -/
theorem timedOut_iff_mod {t t0 : Word} :
    timedOut hw t t0 = true ↔ 1000 < (t.toNat + 2 ^ 32 - t0.toNat) % 2 ^ 32 := by
  have hsub : (t - t0).toNat = (t.toNat + 2 ^ 32 - t0.toNat) % 2 ^ 32 := by
    rw [BitVec.toNat_sub, Nat.add_comm, ← Nat.add_sub_assoc t0.isLt.le]
  rw [timedOut_iff, hsub]

/-- Settles O20: the row P_TIME, its test written as a number. -/
theorem clockCheck : Obligations.ClockCheck := by
  unfold Obligations.ClockCheck
  intro s hr hp
  have hrow : phaseRow s.dropRequest = some (rowPTime s.dropRequest) := by simp [phaseRow, hp]
  rw [step_row hr (by simp [hp]) hrow]
  exact congrArg Host.Outcome.next (if_congr timedOut_iff_mod rfl rfl)

/-! ### GET_WEL (41_wel_handshake.md R131) -/

/-- What a poll that answers RESET leaves in SR: what was there before a failed select or transmit, any byte after a
failed receive (R131 (b)), else the byte received. -/
def ResetPoll.leaves (old new : Byte) : ResetPoll → Prop
  | .select | .transmit => new = old
  | .receive => True
  | .deselect b | .clear b => new = b

/-- The calls of a poll that reads the byte `b` and is answered `ok` by its deselect, oldest first. -/
def readCalls (b : Byte) (ok : Bool) : List Call := [.sel true, .tx [0x05#8] true, .rx 1 (some [b]), .des ok]

/-- The ways GET_WEL ends: its answer, SR, its calls, and the array, which they keep. -/
inductive Polled (s : State) : Bool × State → Prop where
  | reset (p : ResetPoll) (b : Byte) (e : Env) (hp : p.wf = true) (hb : p.leaves s.sr b)
      (hh : e.history = p.calls.reverse ++ s.env.history) (ha : s.env.KeepsArray e) :
    Polled s (false, { s with sr := b, env := e })
  | set (b : Byte) (e : Env) (hb : b.getLsbD 1 = true)
      (hh : e.history = (readCalls b true).reverse ++ s.env.history) (ha : s.env.KeepsArray e) :
    Polled s (true, { s with sr := b, env := e })

/-- GET_WEL ends in one of these ways: the four calls are the exchange of 0x05 for one byte. -/
theorem getWel_polled (s : State) : Polled s (getWel s) := by
  have h := statusExchange_exchanged s
  unfold getWel
  generalize statusExchange s = p at h ⊢
  cases h with
  | select e hh ha => exact .reset .select s.sr e rfl rfl hh ha
  | transmit e hh ha => exact .reset .transmit s.sr e rfl rfl hh ha
  | receive e hh ha => exact .reset .receive _ (e.skip 1) rfl trivial hh ha
  | deselect bs d e ok hl hh ha =>
    obtain ⟨b, rfl⟩ := List.length_eq_one_iff.1 hl
    cases ok with
    | false => exact .reset (.deselect b) b e rfl rfl hh ha
    | true =>
      change Polled s (b.getLsbD 1, { s with sr := b, env := e })
      cases hb : b.getLsbD 1 with
      | false => exact .reset (.clear b) b e (congrArg not hb) rfl hh ha
      | true => exact .set b e hb hh ha

/-- GET_WEL writes no register but SR. -/
theorem getWel_eq (s : State) : ∃ set b e, getWel s = (set, { s with sr := b, env := e }) := by
  have h := getWel_polled s
  generalize getWel s = p at h ⊢
  cases h with
  | reset p b e => exact ⟨false, b, e, rfl⟩
  | set b e => exact ⟨true, b, e, rfl⟩

/-- Settles O16: the ways GET_WEL ends, with its answer. -/
theorem getWelExchange : Obligations.GetWelExchange := by
  unfold Obligations.GetWelExchange
  intro s
  have h := getWel_polled s
  refine ⟨(getWel s).2.answer (.wel (getWel s).1), rfl, ?_⟩
  generalize getWel s = p at h ⊢
  cases h with
  | reset p b e hp hb hh ha =>
    refine ⟨rfl, .of_keepsArray ha, ?_⟩
    cases p with
    | select => exact .inl ⟨rfl, hb, hh⟩
    | transmit => exact .inr (.inl ⟨rfl, hb, hh⟩)
    | receive => exact .inr (.inr (.inl ⟨rfl, hh⟩))
    | deselect x => exact .inr (.inr (.inr ⟨x, hb, .inl ⟨rfl, hh⟩⟩))
    | clear x =>
      have hx : x.getLsbD 1 = false := by simpa [ResetPoll.wf] using hp
      exact .inr (.inr (.inr ⟨x, hb, .inr ⟨by rw [hx]; rfl, hh⟩⟩))
  | set b e hb hh ha =>
    exact ⟨rfl, .of_keepsArray ha, .inr (.inr (.inr ⟨b, rfl, .inr ⟨by rw [hb]; rfl, hh⟩⟩))⟩

/-! ### The write-enable bracket (41_wel_handshake.md R133) -/

@[simp] theorem frameBytes_wWren : frameBytes .wWren = [0x06#8] := rfl

/-- The ways the write-enable bracket ends, by its last call. -/
inductive Bracketed (s : State) : Result × State → Prop where
  | select (e : Env) (hh : e.history = .sel false :: s.env.history) (ha : s.env.KeepsArray e) :
    Bracketed s (.csError, s.setEnv e)
  | transmit (e : Env) (hh : e.history = .tx [0x06#8] false :: .sel true :: s.env.history)
      (ha : s.env.KeepsArray e) : Bracketed s (.spiError, s.setEnv e)
  | deselect (e : Env) (ok : Bool) (hh : e.history = .des ok :: .tx [0x06#8] true :: .sel true :: s.env.history)
      (ha : s.env.KeepsArray e) : Bracketed s (if ok then .ok else .csError, s.setEnv e)

theorem welBracket_bracketed (s : State) : Bracketed s (welBracket s) := by
  rw [welBracket, frameBytes_wWren]
  rcases callCs_cases Env.select s with ⟨h1, e1⟩ | ⟨h1, e1⟩
  · have k2 := Env.select_transmit_keepsArray s.env h1 [0x06#8]
    rw [e1, andThen_mk_ok]
    rcases callTx_cases [0x06#8] (s.setEnv s.env.select.2) with ⟨h2, e2⟩ | ⟨h2, e2⟩ <;> rw [State.setEnv_env] at h2
    · rw [e2, andThen_mk_ok]
      exact .deselect _ _ (by simp [h1, h2]) (k2.trans (Env.deselect_keepsArray _))
    · rw [e2, andThen_mk_spiError]
      exact .transmit _ (by simp [h1, h2]) k2
  · rw [e1, andThen_mk_csError, andThen_mk_csError]
    exact .select _ (by simp [h1]) s.env.select_keepsArray

/-! ### The polling loop (41_wel_handshake.md R133) -/

section

variable {s : State} {n : Nat}

theorem getWel_t0 (s : State) : (getWel s).2.t0 = s.t0 := by
  obtain ⟨set, b, e, h⟩ := getWel_eq s
  rw [h]

/-- A poll that answers SET ends the loop. -/
theorem pollLoop_set (h : (getWel s).1 = true) : pollLoop (n + 1) s = (some .ok, (getWel s).2) := by
  rw [pollLoop, if_pos h]

/-- After a poll that answers RESET the clock read decides (41_wel_handshake.md R134). -/
theorem pollLoop_reset (h : (getWel s).1 = false) :
    pollLoop (n + 1) s =
      if timedOut hw (s.clockRead 0) s.t0 then (some .timeoutError, s.afterRounds 1)
      else pollLoop n (s.afterRounds 1) := by
  rw [pollLoop, if_neg (by simp [h]), getWel_t0]
  rfl

/-- A clock read beyond ends the loop. -/
theorem pollLoop_beyond (h : (getWel s).1 = false) (ht : 1000 < (s.clockRead 0 - s.t0).toNat) :
    pollLoop (n + 1) s = (some .timeoutError, s.afterRounds 1) := by
  rw [pollLoop_reset h, if_pos (timedOut_iff.2 ht)]

/-- A clock read within leaves the loop to its next round. -/
theorem pollLoop_within (h : (getWel s).1 = false) (ht : (s.clockRead 0 - s.t0).toNat ≤ 1000) :
    pollLoop (n + 1) s = pollLoop n (s.afterRounds 1) := by
  rw [pollLoop_reset h, if_neg (fun hk => Nat.not_lt.2 ht (timedOut_iff.1 hk))]

/-- A poll that answers RESET and the clock read after it make a round. -/
theorem round_of_reset (h : (getWel s).1 = false) :
    ∃ (r : Round) (b : Byte) (e : Env), r.poll.wf = true ∧ r.time = s.clockRead 0 ∧
      s.afterRounds 1 = { s with sr := b, env := e } ∧ e.history = r.calls.reverse ++ s.env.history ∧
      s.env.KeepsArray e := by
  have hp := getWel_polled s
  have hc : s.clockRead 0 = (getWel s).2.env.now.1 := rfl
  have ha : s.afterRounds 1 = (getWel s).2.setEnv (getWel s).2.env.now.2 := rfl
  rw [hc, ha]
  generalize getWel s = p at h hp ⊢
  cases hp with
  | reset p b e hw hb hh hk =>
    exact ⟨⟨p, e.now.1⟩, b, e.now.2, hw, rfl, rfl, by simp [Round.calls, hh], hk.trans e.now_keepsArray⟩
  | set => cases h

end

/-- What an execution of SET_WEL hands back: its end, or that it has none yet (log 16). -/
def handshakeAnswer : Option Result → MicroAnswer
  | some r => .status r
  | none => .polling

/-- How at most `polls` rounds of the loop end: the answer `m`, with SR and the calls made. -/
def LoopEnd (polls : Nat) (t0 : Word) (m : MicroAnswer) (sr : Byte) (loop : List Call) : Prop :=
  ∃ rounds : List Round, (∀ r ∈ rounds, r.within t0) ∧
    ((m = .status .ok ∧ sr.getLsbD 1 = true ∧ loop = rounds.flatMap Round.calls ++ readCalls sr true) ∨
      (m = .status .timeoutError ∧ ∃ last : Round, last.beyond t0 ∧ loop = (rounds ++ [last]).flatMap Round.calls) ∨
      (m = .polling ∧ rounds.length = polls ∧ loop = rounds.flatMap Round.calls))

/-- A round before the others. -/
theorem LoopEnd.cons {polls : Nat} {t0 : Word} {m : MicroAnswer} {sr : Byte} {loop : List Call} {first : Round}
    (hf : first.within t0) (h : LoopEnd polls t0 m sr loop) : LoopEnd (polls + 1) t0 m sr (first.calls ++ loop) := by
  obtain ⟨rounds, hw, h⟩ := h
  refine ⟨first :: rounds, List.forall_mem_cons.2 ⟨hf, hw⟩, ?_⟩
  rcases h with ⟨hm, hs, rfl⟩ | ⟨hm, last, hl, rfl⟩ | ⟨hm, hn, rfl⟩
  · exact .inl ⟨hm, hs, by simp⟩
  · exact .inr (.inl ⟨hm, last, hl, by simp⟩)
  · exact .inr (.inr ⟨hm, by simp [hn], by simp⟩)

/-- What the loop can do: it ends in one of these ways and writes no register but SR. -/
inductive Looped (polls : Nat) (s : State) : Option Result × State → Prop where
  | mk (r : Option Result) (b : Byte) (e : Env) (loop : List Call) (hl : LoopEnd polls s.t0 (handshakeAnswer r) b loop)
      (hh : e.history = loop.reverse ++ s.env.history) (ha : s.env.KeepsArray e) :
    Looped polls s (r, { s with sr := b, env := e })

theorem pollLoop_looped (polls : Nat) (s : State) : Looped polls s (pollLoop polls s) := by
  induction polls generalizing s with
  | zero => exact .mk none s.sr s.env [] ⟨[], by simp, .inr (.inr ⟨rfl, rfl, rfl⟩)⟩ rfl (.refl _)
  | succ n ih =>
    cases hg : (getWel s).1 with
    | true =>
      rw [pollLoop_set hg]
      have hp := getWel_polled s
      generalize getWel s = p at hg hp ⊢
      cases hp with
      | reset => cases hg
      | set b e hb hh ha => exact .mk (some .ok) b e _ ⟨[], by simp, .inl ⟨rfl, hb, rfl⟩⟩ hh ha
    | false =>
      obtain ⟨r, b, e, hw, ht, hs, hh, ha⟩ := round_of_reset hg
      by_cases hb : 1000 < (s.clockRead 0 - s.t0).toNat
      · rw [pollLoop_beyond hg hb, hs]
        exact .mk (some .timeoutError) b e r.calls
          ⟨[], by simp, .inr (.inl ⟨rfl, r, ⟨hw, ht ▸ hb⟩, by simp⟩)⟩ hh ha
      · rw [pollLoop_within hg (Nat.not_lt.1 hb), hs]
        have h := ih { s with sr := b, env := e }
        generalize pollLoop n _ = p at h ⊢
        cases h with
        | mk r' b' e' loop hl hh' ha' =>
          exact .mk r' b' e' (r.calls ++ loop) (hl.cons ⟨hw, ht ▸ Nat.not_lt.1 hb⟩)
            (by simp [hh', hh]) (ha.trans ha')

/-! ### SET_WEL executed on its own (41_wel_handshake.md R133; log 16) -/

/-- An execution of SET_WEL that begins the handshake. -/
theorem exec_setWel_begin {s : State} (h : s.micro ≠ .polling) :
    exec .setWel s =
      .next ((setWelWithin s.pollBound s).2.answer (handshakeAnswer (setWelWithin s.pollBound s).1)) := by
  rw [exec, execSetWel, if_neg h]
  rcases setWelWithin s.pollBound s with ⟨_ | r, t⟩ <;> rfl

/-- An execution of SET_WEL that goes on with the handshake. -/
theorem exec_setWel_continue {s : State} (h : s.micro = .polling) :
    exec .setWel s = .next ((pollLoop s.pollBound s).2.answer (handshakeAnswer (pollLoop s.pollBound s).1)) := by
  rw [exec, execSetWel, if_pos h]
  rcases pollLoop s.pollBound s with ⟨_ | r, t⟩ <;> rfl

/-- Settles O17: T0, the bracket's ways to end, and the loop's. -/
theorem setWelExchange : Obligations.SetWelExchange := by
  unfold Obligations.SetWelExchange
  intro s
  have clock := s.env.now_keepsArray
  by_cases hm : s.micro = .polling
  · rw [exec_setWel_continue hm]
    have h := pollLoop_looped s.pollBound s
    generalize pollLoop s.pollBound s = p at h ⊢
    cases h with
    | mk r b e loop hl hh ha =>
      exact ⟨_, loop, rfl, rfl, .of_keepsArray ha, hh,
        .inr (.inr ⟨[], loop, rfl, (absurd hm ·), fun _ => ⟨rfl, rfl⟩, hl⟩)⟩
  · rw [exec_setWel_begin hm]
    have hb := welBracket_bracketed s.readT0
    unfold setWelWithin
    generalize welBracket s.readT0 = p at hb ⊢
    cases hb with
    | select e hh ha =>
      exact ⟨_, _, rfl, rfl, .of_keepsArray (clock.trans ha), by simp [Called, hh],
        .inl ⟨hm, rfl, rfl, .inl rfl⟩⟩
    | transmit e hh ha =>
      exact ⟨_, _, rfl, rfl, .of_keepsArray (clock.trans ha), by simp [Called, hh], .inr (.inl ⟨hm, rfl, rfl, rfl⟩)⟩
    | deselect e ok hh ha =>
      cases ok with
      | false =>
        exact ⟨_, _, rfl, rfl, .of_keepsArray (clock.trans ha), by simp [Called, hh],
          .inl ⟨hm, rfl, rfl, .inr rfl⟩⟩
      | true =>
        have h := pollLoop_looped s.pollBound (s.readT0.setEnv e)
        simp only [if_true]
        generalize pollLoop s.pollBound _ = p at h ⊢
        cases h with
        | mk r b e' loop hl hh' ha' =>
          exact ⟨_, _, rfl, rfl, .of_keepsArray (clock.trans (ha.trans ha')), by simp [Called, hh', hh, enableBracket],
            .inr (.inr ⟨[Call.now s.env.now.1] ++ enableBracket, loop, rfl, fun _ => rfl, (absurd · hm), hl⟩)⟩

end Sys2Proof.Machine

/-! O18, O19: SET_WEL on answers that the script or the reference responder fixes (41_wel_handshake.md R133 to R137). -/

namespace Sys2Proof.Machine

open Config (hw)

@[simp] theorem State.setEnv_setEnv (s : State) (e f : Env) : (s.setEnv e).setEnv f = s.setEnv f := rfl

/-! ### The call of an answer (20_memory.md R68) -/

section

variable {e f : Env} {ok : Bool}

theorem Env.history_of_select (h : e.select = (ok, f)) : f.history = .sel ok :: e.history := by
  simpa [h] using e.select_history
theorem Env.history_of_deselect (h : e.deselect = (ok, f)) : f.history = .des ok :: e.history := by
  simpa [h] using e.deselect_history
theorem Env.history_of_transmit {bs : List Byte} (h : e.transmit bs = (ok, f)) :
    f.history = .tx bs ok :: e.history := by simpa [h] using e.transmit_history bs
theorem Env.history_of_receive {n : Nat} {ans : Option (List Byte)} (h : e.receive n = (ans, f)) :
    f.history = .rx n ans :: e.history := by simpa [h] using e.receive_history n

end

@[simp] theorem frameBytes_wRdsr : frameBytes .wRdsr = [0x05#8] := rfl

/-- A status read asks for one byte (30_encoding.md R86). -/
@[simp] theorem srLen_hw : hw.srLen = 1 := rfl

/-! ### GET_WEL and the write-enable bracket by the answers of their calls (41_wel_handshake.md R131, R133) -/

section

variable {s : State} {e1 e2 e3 e4 : Env} {b : Byte} {ok : Bool}

theorem getWel_select_fail (h1 : s.env.select = (false, e1)) : getWel s = (false, s.setEnv e1) := by
  simp [getWel, statusExchange, callCs, h1]

section

variable (h1 : s.env.select = (true, e1))
include h1

theorem getWel_transmit_fail (h2 : e1.transmit [0x05#8] = (false, e2)) : getWel s = (false, s.setEnv e2) := by
  simp [getWel, statusExchange, callCs, h1, callTx, h2]

variable (h2 : e1.transmit [0x05#8] = (true, e2))
include h2

theorem getWel_receive_fail (h3 : e2.receive 1 = (none, e3)) :
    getWel s = (false, { s with sr := Config.freeByte e3.draws, env := e3.skip 1 }) := by
  simp [getWel, statusExchange, callCs, h1, callTx, h2, callRx, h3, State.anySr, State.setEnv]

variable (h3 : e2.receive 1 = (some [b], e3)) (h4 : e3.deselect = (ok, e4))
include h3 h4

theorem statusExchange_read :
    statusExchange s = (if ok then .ok else .csError, { s with sr := b, env := e4 }) := by
  simp [statusExchange, callCs, h1, callTx, h2, callRx, h3, h4, State.setSr, State.setEnv]

theorem getWel_read : getWel s = (ok && b.getLsbD 1, { s with sr := b, env := e4 }) := by
  rw [getWel, statusExchange_read h1 h2 h3 h4]
  cases ok <;> rfl

theorem history_of_read : e4.history = (readCalls b ok).reverse ++ s.env.history := by
  simp [readCalls, Env.history_of_deselect h4, Env.history_of_receive h3, Env.history_of_transmit h2,
    Env.history_of_select h1]

end

theorem setWelWithin_of_enabled {polls : Nat} (h1 : s.env.now.2.select = (true, e1))
    (h2 : e1.transmit [0x06#8] = (true, e2)) (h3 : e2.deselect = (true, e3)) :
    setWelWithin polls s = pollLoop polls { s with t0 := s.env.now.1, env := e3 } := by
  have hb : welBracket s.readT0 = (.ok, s.readT0.setEnv e3) := by simp [welBracket, callCs, h1, callTx, h2, h3]
  rw [setWelWithin, hb]
  rfl

theorem history_of_enabled (h1 : s.env.now.2.select = (true, e1)) (h2 : e1.transmit [0x06#8] = (true, e2))
    (h3 : e2.deselect = (true, e3)) :
    e3.history = ([Call.now s.env.now.1] ++ enableBracket).reverse ++ s.env.history := by
  simp [enableBracket, Env.history_of_deselect h3, Env.history_of_transmit h2, Env.history_of_select h1]

end

/-! ### Scripted answers (logs 1, 6) -/

/-- The scripted answer of an ok-or-fail call. -/
def ackReply (ok : Bool) : Reply := if ok then .ok else .fail

namespace Env

variable {e : Env} {ok : Bool} {r : List Reply}

theorem select_script (h : e.script = ackReply ok :: r) : ∃ f, e.select = (ok, f) ∧ f.script = r := by
  cases ok with
  | false => exact ⟨_, select_scripted_fail h, rfl⟩
  | true => exact ⟨_, select_scripted_ok h, rfl⟩

theorem deselect_script (h : e.script = ackReply ok :: r) : ∃ f, e.deselect = (ok, f) ∧ f.script = r := by
  cases ok with
  | false => exact ⟨_, deselect_scripted_fail h, rfl⟩
  | true => exact ⟨_, deselect_scripted_ok h, rfl⟩

theorem transmit_script (bs : List Byte) (h : e.script = ackReply ok :: r) :
    ∃ f, e.transmit bs = (ok, f) ∧ f.script = r := by
  cases ok with
  | false => exact ⟨_, transmit_scripted_fail h bs, rfl⟩
  | true => exact ⟨_, transmit_scripted_ok h bs, rfl⟩

end Env

section

variable {s : State} {rest : List Reply}

/-- A poll whose first three calls are answered ok. -/
theorem getWel_read_scripted {b : Byte} {ok : Bool}
    (h : s.env.script = .ok :: .ok :: .bytes [b] :: ackReply ok :: rest) :
    ∃ e, getWel s = (ok && b.getLsbD 1, { s with sr := b, env := e }) ∧ e.script = rest ∧
      e.history = (readCalls b ok).reverse ++ s.env.history := by
  obtain ⟨e1, h1, k1⟩ := Env.select_script (ok := true) h
  obtain ⟨e2, h2, k2⟩ := Env.transmit_script (ok := true) [0x05#8] k1
  have h3 := Env.receive_scripted_bytes (n := 1) k2 rfl
  obtain ⟨e4, h4, k4⟩ := Env.deselect_script (e := (e2.receive 1).2) (ok := ok) (r := rest) (by rw [h3])
  rw [h3] at h4
  exact ⟨e4, getWel_read h1 h2 h3 h4, k4, history_of_read h1 h2 h3 h4⟩

/-- A poll of each kind that answers RESET (41_wel_handshake.md R131, R132). -/
theorem getWel_reset_scripted {p : ResetPoll} (hp : p.wf = true) (h : s.env.script = p.replies ++ rest) :
    ∃ b e, getWel s = (false, { s with sr := b, env := e }) ∧ e.script = rest ∧
      e.history = p.calls.reverse ++ s.env.history := by
  cases p with
  | select =>
    have h1 := Env.select_scripted_fail h
    exact ⟨s.sr, _, getWel_select_fail h1, rfl, rfl⟩
  | transmit =>
    obtain ⟨e1, h1, k1⟩ := Env.select_script (ok := true) h
    have h2 := Env.transmit_scripted_fail k1 [0x05#8]
    exact ⟨s.sr, _, getWel_transmit_fail h1 h2, rfl, by simp [ResetPoll.calls, Env.history_of_select h1]⟩
  | receive =>
    obtain ⟨e1, h1, k1⟩ := Env.select_script (ok := true) h
    obtain ⟨e2, h2, k2⟩ := Env.transmit_script (ok := true) [0x05#8] k1
    have h3 := Env.receive_scripted_fail k2 1
    exact ⟨_, _, getWel_receive_fail h1 h2 h3, rfl,
      by simp [ResetPoll.calls, Env.history_of_transmit h2, Env.history_of_select h1]⟩
  | deselect b =>
    obtain ⟨e, hg, hs, hh⟩ := getWel_read_scripted (ok := false) h
    exact ⟨b, e, hg, hs, hh⟩
  | clear b =>
    obtain ⟨e, hg, hs, hh⟩ := getWel_read_scripted (ok := true) h
    have hb : b.getLsbD 1 = false := by simpa [ResetPoll.wf] using hp
    exact ⟨b, e, by rw [hg, hb]; rfl, hs, hh⟩

/-- A round whose poll answers RESET. -/
theorem round_scripted {r : Round} (hp : r.poll.wf = true) (h : s.env.script = r.replies ++ rest) :
    (getWel s).1 = false ∧ s.clockRead 0 = r.time ∧ ∃ b e, s.afterRounds 1 = { s with sr := b, env := e } ∧
      e.script = rest ∧ e.history = r.calls.reverse ++ s.env.history := by
  rw [Round.replies, List.append_assoc] at h
  obtain ⟨b, e, hg, hs, hh⟩ := getWel_reset_scripted hp h
  have hn := Env.now_scripted hs
  simp only [State.clockRead, State.afterRounds, hg]
  refine ⟨trivial, congrArg Prod.fst hn, b, e.now.2, rfl, by rw [hn]; rfl, ?_⟩
  simp [Round.calls, hn, hh]

/-- Rounds within, then one beyond, time the loop out. -/
theorem pollLoop_scripted_timeout {rounds : List Round} {last : Round} (k : Nat)
    (hw : ∀ r ∈ rounds, r.within s.t0) (hl : last.beyond s.t0)
    (h : s.env.script = (rounds ++ [last]).flatMap Round.replies ++ rest) :
    ∃ b e, pollLoop (k + rounds.length + 1) s = (some .timeoutError, { s with sr := b, env := e }) ∧
      e.script = rest ∧ e.history = ((rounds ++ [last]).flatMap Round.calls).reverse ++ s.env.history := by
  induction rounds generalizing s with
  | nil =>
    obtain ⟨hg, ht, b, e, ha, hs, hh⟩ := round_scripted hl.1 (rest := rest) (by simpa using h)
    exact ⟨b, e, by rw [pollLoop_beyond hg (ht ▸ hl.2), ha], hs, by simpa using hh⟩
  | cons r rs ih =>
    obtain ⟨hr, hrs⟩ := List.forall_mem_cons.1 hw
    rw [List.cons_append, List.flatMap_cons, List.append_assoc] at h
    obtain ⟨hg, ht, b, e, ha, hs, hh⟩ := round_scripted hr.1 h
    obtain ⟨b', e', hloop, hs', hh'⟩ := ih (s := { s with sr := b, env := e }) hrs hl hs
    exact ⟨b', e', by rw [pollLoop_within hg (ht ▸ hr.2), ha]; exact hloop, hs', by simp [hh', hh]⟩

/-- The clock read and the write-enable bracket, answered ok. -/
theorem setWelWithin_scripted {now0 : Word} (h : s.env.script = .time now0 :: .ok :: .ok :: .ok :: rest) :
    ∃ e, (∀ polls, setWelWithin polls s = pollLoop polls { s with t0 := now0, env := e }) ∧ e.script = rest ∧
      e.history = ([Call.now now0] ++ enableBracket).reverse ++ s.env.history := by
  have hn := Env.now_scripted h
  obtain ⟨e1, h1, k1⟩ := Env.select_script (e := s.env.now.2) (ok := true) (r := .ok :: .ok :: rest) (by rw [hn]; rfl)
  obtain ⟨e2, h2, k2⟩ := Env.transmit_script (ok := true) [0x06#8] k1
  obtain ⟨e3, h3, k3⟩ := Env.deselect_script (ok := true) k2
  have ht : s.env.now.1 = now0 := congrArg Prod.fst hn
  exact ⟨e3, fun polls => ht ▸ setWelWithin_of_enabled h1 h2 h3, k3, ht ▸ history_of_enabled h1 h2 h3⟩

end

/-- An execution makes a poll more than there are scripted answers (log 16). -/
theorem length_script_lt_pollBound (s : State) : s.env.script.length < s.pollBound := by
  unfold State.pollBound
  split <;> omega

/-- Every round takes a scripted answer. -/
theorem length_le_length_replies (rounds : List Round) : rounds.length ≤ (rounds.flatMap Round.replies).length := by
  induction rounds with
  | nil => simp
  | cons r rs ih => simp [Round.replies]; omega

/-- An execution makes enough polls for the rounds that the script holds. -/
theorem exists_pollBound_of_rounds {s : State} {first rest : List Reply} {rounds : List Round} {last : Round}
    (h : s.env.script = first ++ (rounds ++ [last]).flatMap Round.replies ++ rest) :
    ∃ k, s.pollBound = k + rounds.length + 1 := by
  have hb := length_script_lt_pollBound s
  have hr := length_le_length_replies (rounds ++ [last])
  simp only [h, List.length_append, List.length_singleton] at hb hr
  exact ⟨s.pollBound - (rounds.length + 1), by omega⟩

/-- Settles O19: the loop's rounds, from the start and where an execution goes on. -/
theorem setWelTimesOut : Obligations.SetWelTimesOut := by
  unfold Obligations.SetWelTimesOut
  intro s now0 rounds last rest hw hl
  refine ⟨fun hm h => ?_, fun hm ht h => ?_⟩
  · obtain ⟨k, hk⟩ := exists_pollBound_of_rounds (first := [.time now0, .ok, .ok, .ok]) h
    obtain ⟨e, hloop, hs, hh⟩ := setWelWithin_scripted h
    obtain ⟨b, e', hloop', hs', hh'⟩ :=
      pollLoop_scripted_timeout (s := { s with t0 := now0, env := e }) k hw hl hs
    refine ⟨_, exec_setWel_begin hm, ?_⟩
    rw [hloop, hk, hloop']
    exact ⟨rfl, rfl, hs', by simp [Called, hh', hh]⟩
  · subst ht
    obtain ⟨k, hk⟩ := exists_pollBound_of_rounds (first := []) h
    obtain ⟨b, e, hloop, hs, hh⟩ := pollLoop_scripted_timeout k hw hl h
    refine ⟨_, exec_setWel_continue hm, ?_⟩
    rw [hk, hloop]
    exact ⟨rfl, rfl, hs, hh⟩

/-! ### The reference responder (95_test_vectors.md section 4; a fixture, log 4) -/

/-- While its clock script lasts the responder answers from it. -/
theorem Env.AnsweredBy.now_clock {e : Env} {c : Chip} {t : Word} {later : List Word} (h : e.AnsweredBy c)
    (hc : c.clock = t :: later) : e.now.1 = t ∧ e.now.2.AnsweredBy { c with clock := later } := by
  simp [Env.AnsweredBy, Env.now, Env.nowAnswer, Env.reply, h.1, Env.ownNow, h.2, Chip.now, hc]

/-- A status read while the lag lasts. -/
theorem Chip.poll_bracket_lagging {c : Chip} {n : Nat} (hn : c.pending = .reads (n + 1)) :
    ∃ d, c.select.transmit [hw.opcRdsr] = some d ∧ d.receive 1 = some ([0x00#8], { d with pending := .reads n }) ∧
      Chip.deselect { d with pending := .reads n } = { c.polled with pending := .reads n } := by
  refine ⟨_, rfl, ?_, rfl⟩
  simp [Chip.receive, Chip.select, Chip.status, hn, hw]

section

variable {s : State} {c d d' : Chip}

/-- A poll that the responder answers. -/
theorem getWel_answered {b : Byte} (he : s.env.AnsweredBy c) (ht : c.select.transmit [0x05#8] = some d)
    (hr : d.receive 1 = some ([b], d')) :
    ∃ e, getWel s = (b.getLsbD 1, { s with sr := b, env := e }) ∧ e.AnsweredBy d'.deselect ∧
      e.history = (readCalls b true).reverse ++ s.env.history := by
  obtain ⟨h1, a1⟩ := he.select
  obtain ⟨h2, a2⟩ := a1.transmit ht
  obtain ⟨h3, a3⟩ := a2.receive hr
  obtain ⟨h4, a4⟩ := a3.deselect
  exact ⟨_, getWel_read (Prod.ext h1 rfl) (Prod.ext h2 rfl) (Prod.ext h3 rfl) (Prod.ext h4 rfl), a4,
    history_of_read (Prod.ext h1 rfl) (Prod.ext h2 rfl) (Prod.ext h3 rfl) (Prod.ext h4 rfl)⟩

/-- The clock read and the write-enable bracket, answered by the responder. -/
theorem setWelWithin_answered {now0 : Word} {later : List Word} (he : s.env.AnsweredBy c)
    (hc : c.clock = now0 :: later) :
    ∃ e, (∀ polls, setWelWithin polls s = pollLoop polls { s with t0 := now0, env := e }) ∧
      e.AnsweredBy (c.enabled later) ∧
      e.history = ([Call.now now0] ++ enableBracket).reverse ++ s.env.history := by
  obtain ⟨d, ht, hd⟩ := c.enable_bracket later
  obtain ⟨rfl, a0⟩ := he.now_clock hc
  obtain ⟨h1, a1⟩ := a0.select
  obtain ⟨h2, a2⟩ := a1.transmit ht
  obtain ⟨h3, a3⟩ := a2.deselect
  exact ⟨_, fun _ => setWelWithin_of_enabled (Prod.ext h1 rfl) (Prod.ext h2 rfl) (Prod.ext h3 rfl), hd ▸ a3,
    history_of_enabled (Prod.ext h1 rfl) (Prod.ext h2 rfl) (Prod.ext h3 rfl)⟩

/-- A poll for each status read of the lag, the clock read after it within, then the poll that reads the latch. -/
theorem pollLoop_answered {times rest : List Word} (k : Nat) (he : s.env.AnsweredBy c) (hl : c.latch = true)
    (hp : c.pending = .reads times.length) (hc : c.clock = times ++ rest)
    (hw : ∀ x ∈ times, (x - s.t0).toNat ≤ 1000) :
    ∃ e, pollLoop (k + times.length + 1) s = (some .ok, { s with sr := 0x02#8, env := e }) ∧
      e.history = ((times.flatMap fun x => readCalls 0x00#8 true ++ [Call.now x]) ++ readCalls 0x02#8 true).reverse ++
        s.env.history := by
  induction times generalizing s c with
  | nil =>
    obtain ⟨d, ht, hr, -⟩ := Chip.poll_bracket hl hp
    obtain ⟨e, hg, -, hh⟩ := getWel_answered he ht hr
    exact ⟨e, by rw [pollLoop_set (by rw [hg]; rfl), hg], hh⟩
  | cons x xs ih =>
    obtain ⟨hx, hxs⟩ := List.forall_mem_cons.1 hw
    obtain ⟨d, ht, hr, hd⟩ := Chip.poll_bracket_lagging hp
    obtain ⟨e, hg, a1, hh⟩ := getWel_answered he ht hr
    rw [hd] at a1
    obtain ⟨ht, a2⟩ := a1.now_clock hc
    have hread : s.clockRead 0 = x := by simp only [State.clockRead, State.afterRounds, hg, ht]
    have hnext : s.afterRounds 1 = { s with sr := 0x00#8, env := e.now.2 } := by
      simp only [State.afterRounds, hg]; rfl
    obtain ⟨e', hloop, hh'⟩ := ih (s := { s with sr := 0x00#8, env := e.now.2 }) a2 hl rfl rfl hxs
    refine ⟨e', ?_, by simp [hh', hh, ht]⟩
    rw [pollLoop_within (by rw [hg]; rfl) (hread ▸ hx), hnext]
    exact hloop

end

/-- An execution makes enough polls for the responder's lag (log 16). -/
theorem exists_pollBound_of_lag {s : State} {c : Chip} {n : Nat} (hc : s.env.chip = some c) (hl : c.lag = .reads n) :
    ∃ k, s.pollBound = k + n + 1 := by
  simp only [State.pollBound, hc, hl, Lag.polls]
  exact ⟨_, rfl⟩

/-- Settles O18: the poll that reads WEL set ends the loop, on a script at once, on the responder after its lag. -/
theorem setWelFirstPollSet : Obligations.SetWelFirstPollSet := by
  unfold Obligations.SetWelFirstPollSet
  refine ⟨fun s now0 b rest hm hb h => ?_, fun s c n now0 times rest hm hs hc hl hk hn hw => ?_⟩
  · obtain ⟨e, hloop, hs, hh⟩ := setWelWithin_scripted h
    obtain ⟨e', hg, hs', hh'⟩ := getWel_read_scripted (s := { s with t0 := now0, env := e }) (ok := true) hs
    obtain ⟨n, hn⟩ := Nat.exists_eq_add_one_of_ne_zero (Nat.ne_zero_of_lt (length_script_lt_pollBound s))
    refine ⟨_, exec_setWel_begin hm, ?_⟩
    rw [hloop, hn, pollLoop_set (by rw [hg, hb]; rfl), hg]
    exact ⟨rfl, rfl, rfl, rfl, hs', by simp [Called, readCalls, hh', hh]⟩
  · subst hn
    obtain ⟨e, hloop, ha, hh⟩ := setWelWithin_answered ⟨hs, hc⟩ hk
    obtain ⟨k, hb⟩ := exists_pollBound_of_lag hc hl
    obtain ⟨e', hloop', hh'⟩ := pollLoop_answered (s := { s with t0 := now0, env := e }) k ha rfl hl rfl hw
    refine ⟨_, exec_setWel_begin hm, ?_⟩
    rw [hloop, hb, hloop']
    exact ⟨rfl, rfl, rfl, rfl, by simp [Called, readCalls, hh', hh]⟩

end Sys2Proof.Machine

/-! O21: the sequencer's handshake follows the loop of SET_WEL, and with the clock's promise every operation ends
(41_wel_handshake.md R135, 70_reset_and_hazards.md R250). -/

namespace Sys2Proof.Machine

open Config (hw)

/-! ### The sequencer polls as GET_WEL does (10_state.md R30, 41_wel_handshake.md R131) -/

section

variable {s : State} (hq : s.quiet)
include hq

/-- A row made of one ok-or-fail call, by its answer. -/
theorem step_onAck {call : Bool × Env} {good bad : State → State} {ok : Bool} {e : Env}
    (hr : phaseRow s = some (s.onAck call good bad)) (hc : call = (ok, e)) :
    step s = .next (if ok then good (s.setEnv e) else bad (s.setEnv e)) := by
  rw [step_phaseRow hq hr, State.onAck, hc]

theorem step_pSel (hp : s.seq = .pSel) {ok : Bool} {e : Env} (h : s.env.select = (ok, e)) :
    step s = .next ((s.setEnv e).goto (if ok then .pTx else .pTime)) := by
  have hr : phaseRow s = some (s.onAck s.env.select (State.goto .pTx) (State.goto .pTime)) := by
    simp [phaseRow, hp, rowPSel]
  rw [step_onAck hq hr h]
  cases ok <;> rfl

theorem step_pTx_on {e f : Env} {ok : Bool} (h : e.transmit [0x05#8] = (ok, f)) :
    step (s.on .pTx e) = .next (s.on (if ok then .pRx else .pTime) f) := by
  have hd : (s.on .pTx e).dropRequest = s.on .pTx e := dropRequest_of_none hq.2
  have ht : (s.on .pTx e).env.transmit (frameBytes .wRdsr) = (ok, f) := h
  rw [step_pTx (s := s.on .pTx e) hq.1 rfl, hd, execWRdsr, transmitCommand, State.onAck, ht]
  cases ok <;> rfl

theorem step_pRx_fail {e f : Env} (h : e.receive 1 = (none, f)) :
    step (s.on .pRx e) = .next ({ s with sr := Config.freeByte f.draws }.on .pTime (f.skip 1)) := by
  have h : (s.on .pRx e).env.receive hw.srLen = (none, f) := h
  refine step_phaseRow hq (congrArg some ?_)
  rw [rowPRx, h]
  rfl

theorem step_pRx_read {e f : Env} {b : Byte} (h : e.receive 1 = (some [b], f)) :
    step (s.on .pRx e) = .next ({ s with sr := b }.on .pDes f) := by
  have h : (s.on .pRx e).env.receive hw.srLen = (some [b], f) := h
  refine step_phaseRow hq (congrArg some ?_)
  rw [rowPRx, h]
  rfl

theorem step_pDes_on {e f : Env} {ok : Bool} (h : e.deselect = (ok, f)) :
    step (s.on .pDes e) = .next (s.on (if ok && s.sr.getLsbD 1 then .dSel else .pTime) f) := by
  have hr : phaseRow (s.on .pDes e) = some ((s.on .pDes e).onAck e.deselect (welEdge hw) (State.goto .pTime)) := rfl
  rw [step_onAck (s := s.on .pDes e) hq hr h]
  cases ok with
  | false => rfl
  | true =>
    change Host.Outcome.next (if s.sr.getLsbD 1 = true then s.on .dSel f else s.on .pTime f) = _
    cases s.sr.getLsbD 1 <;> rfl

/-- From P_SEL the sequencer makes the calls of GET_WEL and goes where its answer sends it. -/
theorem poll_reaches (hp : s.seq = .pSel) :
    Reaches s ((getWel s).2.goto (if (getWel s).1 then .dSel else .pTime)) := by
  rcases h1 : s.env.select with ⟨_ | _, e1⟩
  · rw [getWel_select_fail h1]
    exact .cons (step_pSel hq hp h1) (.refl _)
  refine .cons (step_pSel hq hp h1) ?_
  rcases h2 : e1.transmit [0x05#8] with ⟨_ | _, e2⟩
  · rw [getWel_transmit_fail h1 h2]
    exact .cons (step_pTx_on hq h2) (.refl _)
  refine .cons (step_pTx_on hq h2) ?_
  rcases h3 : e2.receive 1 with ⟨_ | bs, e3⟩
  · rw [getWel_receive_fail h1 h2 h3]
    exact .cons (step_pRx_fail hq h3) (.refl _)
  obtain ⟨b, rfl⟩ := List.length_eq_one_iff.1 (e2.receive_length (congrArg Prod.fst h3))
  refine .cons (step_pRx_read hq h3) ?_
  rcases h4 : e3.deselect with ⟨ok, e4⟩
  rw [getWel_read h1 h2 h3 h4]
  exact .cons (step_pDes_on (s := { s with sr := b }) hq h4) (.refl _)

/-- The row P_TIME (41_wel_handshake.md R134). -/
theorem step_pTime_on {e : Env} :
    step (s.on .pTime e) = .next (if timedOut hw e.now.1 s.t0 then (s.setEnv e.now.2).raise .timeoutError
      else s.on .pSel e.now.2) := by
  have ht : ((s.on .pTime e).setEnv e.now.2).raise .timeoutError = (s.setEnv e.now.2).raise .timeoutError := by
    rw [State.raise_eq, State.raise_eq]; rfl
  rw [← ht]
  exact step_phaseRow hq rfl

omit hq

theorem State.on_of_seq {p : Phase} (hp : s.seq = p) (e : Env) : s.on p e = s.setEnv e := by
  rw [← hp]; rfl

/-- The state that the loop's answer sends the sequencer to: on to the data bracket, aborted, or polling still
(41_wel_handshake.md R133). -/
def handshakeExit : Option Result × State → State
  | (some .ok, t) => t.goto .dSel
  | (some r, t) => t.raise r
  | (none, t) => t

include hq

/-- The sequencer performs the loop of SET_WEL. -/
theorem pollLoop_reaches (hp : s.seq = .pSel) (polls : Nat) : Reaches s (handshakeExit (pollLoop polls s)) := by
  induction polls generalizing s with
  | zero => exact .refl s
  | succ n ih =>
    have poll := poll_reaches hq hp
    cases hg : (getWel s).1 with
    | true =>
      rw [pollLoop_set hg]
      rw [hg] at poll
      exact poll
    | false =>
      obtain ⟨set, b, e, he⟩ := getWel_eq s
      have hnext : s.afterRounds 1 = { s with sr := b, env := e.now.2 } := by simp only [State.afterRounds, he]; rfl
      have hread : s.clockRead 0 = e.now.1 := by simp only [State.clockRead, State.afterRounds, he]
      rw [hg, he] at poll
      have time := step_pTime_on (s := { s with sr := b }) (e := e) hq
      rw [State.on_of_seq (s := { s with sr := b }) hp] at time
      rw [pollLoop_reset hg, hnext, hread]
      refine poll.trans (.cons time ?_)
      split
      · exact .refl _
      · exact ih hq hp

end

/-! ### The clock's promise (41_wel_handshake.md R135, the spec's decision D30) -/

section

variable {s : State} {n : Nat}

theorem afterRounds_one_t0 (s : State) : (s.afterRounds 1).t0 = s.t0 := getWel_t0 s

/-- Polls that answer RESET before clock reads within leave the loop undecided. -/
theorem pollLoop_undecided {polls : Nat}
    (h : ∀ n, n < polls → (getWel (s.afterRounds n)).1 = false ∧ (s.clockRead n - s.t0).toNat ≤ 1000) :
    (pollLoop polls s).1 = none := by
  induction polls generalizing s with
  | zero => rfl
  | succ m ih =>
    obtain ⟨hg, ht⟩ := h 0 m.succ_pos
    rw [pollLoop_within (s := s) hg ht]
    refine ih fun n hn => ?_
    rw [afterRounds_one_t0]
    exact h (n + 1) (Nat.succ_lt_succ hn)

/-- A round decides the loop, or leaves it to the next after a clock read within. -/
theorem pollLoop_round (s : State) :
    (∃ r, ∀ n, (pollLoop (n + 1) s).1 = some r) ∨
      ((s.clockRead 0 - s.t0).toNat ≤ 1000 ∧ ∀ n, pollLoop (n + 1) s = pollLoop n (s.afterRounds 1)) := by
  cases hg : (getWel s).1 with
  | true => exact .inl ⟨.ok, fun n => by rw [pollLoop_set hg]⟩
  | false =>
    by_cases ht : 1000 < (s.clockRead 0 - s.t0).toNat
    · exact .inl ⟨.timeoutError, fun n => by rw [pollLoop_beyond hg ht]⟩
    · exact .inr ⟨Nat.not_lt.1 ht, fun n => pollLoop_within hg (Nat.not_lt.1 ht)⟩

/-- A clock read beyond decides the loop, if no poll before it does. -/
theorem pollLoop_decided (h : 1000 < (s.clockRead n - s.t0).toNat) : ∃ r, (pollLoop (n + 1) s).1 = some r := by
  induction n generalizing s with
  | zero =>
    rcases pollLoop_round s with ⟨r, hr⟩ | ⟨ht, -⟩
    · exact ⟨r, hr 0⟩
    · exact absurd h (Nat.not_lt.2 ht)
  | succ n ih =>
    rcases pollLoop_round s with ⟨r, hr⟩ | ⟨-, hnext⟩
    · exact ⟨r, hr (n + 1)⟩
    · rw [hnext]
      refine ih ?_
      rw [afterRounds_one_t0]
      exact h

/-- The loop is decided by Ok or TimeoutError. -/
theorem pollLoop_result {polls : Nat} {r : Result} (h : (pollLoop polls s).1 = some r) :
    r = .ok ∨ r = .timeoutError := by
  have hl := pollLoop_looped polls s
  generalize pollLoop polls s = p at h hl
  cases hl with
  | mk r' b e loop hl =>
    obtain rfl : r' = some r := h
    obtain ⟨rounds, -, ⟨hm, -⟩ | ⟨hm, -⟩ | ⟨hm, -⟩⟩ := hl
    · exact .inl (MicroAnswer.status.inj hm)
    · exact .inr (MicroAnswer.status.inj hm)
    · cases hm

/-- With the clock's promise the sequencer leaves the handshake. -/
theorem handshake_left (hq : s.quiet) (hp : s.seq = .pSel) (hc : s.clockPromise) :
    ∃ t, Reaches s t ∧ (t.seq = .dSel ∨ t.seq = .idle ∧ t.result = .timeoutError) := by
  obtain ⟨n, hn⟩ := hc
  obtain ⟨r, hr⟩ := pollLoop_decided hn
  have reach := pollLoop_reaches hq hp (n + 1)
  have hres := pollLoop_result hr
  rcases hl : pollLoop (n + 1) s with ⟨r', t⟩
  rw [hl] at reach hr
  obtain rfl : r' = some r := hr
  rcases hres with rfl | rfl
  · exact ⟨_, reach, .inl rfl⟩
  · exact ⟨_, reach, .inr ⟨rfl, rfl⟩⟩

end

/-! ### A clock that stands still (70_reset_and_hazards.md R250) -/

/-- A round in which the select fails and the clock answers T0 leads from P_SEL to P_SEL. -/
theorem hang_round {s : State} {e : Env} {rest : List Reply} (hq : s.quiet)
    (h : e.script = .fail :: .time s.t0 :: rest) :
    ∃ f, Steps 2 (s.on .pSel e) (s.on .pSel f) ∧ f.script = rest ∧
      f.history = .now s.t0 :: .sel false :: e.history := by
  obtain ⟨e1, h1, k1⟩ := Env.select_script (ok := false) h
  have hn := Env.now_scripted k1
  have hno : ¬ timedOut hw e1.now.1 s.t0 = true := by rw [timedOut_iff, hn]; simp
  have sel : step (s.on .pSel e) = .next (s.on .pTime e1) :=
    step_pSel (s := s.on .pSel e) hq rfl h1
  have time := step_pTime_on (e := e1) hq
  rw [if_neg hno] at time
  exact ⟨_, .cons sel (.one time), by rw [hn], by rw [Env.now_history, hn, Env.history_of_select h1]⟩

theorem hang_steps {s : State} {e : Env} {rest : List Reply} {k : Nat} (hq : s.quiet)
    (h : e.script = (List.replicate k [Reply.fail, .time s.t0]).flatten ++ rest) :
    ∃ f, Steps (2 * k) (s.on .pSel e) (s.on .pSel f) ∧ f.script = rest ∧
      f.history = (List.replicate k [Call.sel false, .now s.t0]).flatten.reverse ++ e.history := by
  induction k generalizing e with
  | zero => exact ⟨e, .zero _, h, rfl⟩
  | succ k ih =>
    obtain ⟨f, hsteps, hs, hh⟩ := hang_round hq h
    obtain ⟨g, hsteps', hs', hh'⟩ := ih hs
    refine ⟨g, ?_, hs', ?_⟩
    · rw [Nat.mul_succ, Nat.add_comm]
      exact hsteps.append hsteps'
    · simp [List.replicate_succ, hh', hh]

/-! ### Every operation ends (10_state.md R41) -/

theorem RowWrites.resetLine {s u : State} (h : RowWrites s u) : u.resetLine = s.resetLine := by cases h <;> rfl

/-- No step resets the controller or presents a request. -/
theorem step_quiet {s t : State} (hq : s.quiet) (hs : step s = .next t) : t.quiet := by
  cases step_transition hq.1 hs with
  | wait hi ht => exact ht ▸ hq
  | accept o a n p later data hi ht => rw [ht]; exact ⟨hq.1, rfl⟩
  | busy hb ht =>
    obtain ⟨u, hw, e⟩ := ht.frame
    exact ⟨((congrArg State.resetLine e).trans hw.resetLine).trans hq.1, (congrArg State.request e).trans hw.request⟩

/-- The data command of a state that fits is sent (10_state.md R30, row D_CMD). -/
theorem exists_step_dCmd {s : State} (h : s.Inv) (hq : s.quiet) (hp : s.seq = .dCmd) : ∃ t, step s = .next t := by
  have hb : s.seq ≠ .idle := by simp [hp]
  obtain ⟨hd, hu⟩ := h.data (by rw [hp]; rfl)
  obtain ⟨opc, ho⟩ := exists_opcode_of_isData hd
  obtain ⟨w, haw⟩ : ∃ w, addressWidth hw (density hw s.idr) = some w :=
    (addressWidth_of_usable hu).elim (fun h => ⟨3, h.1⟩) fun h => ⟨4, h⟩
  have hf := frame_of_addressWidth haw opc s.addr
  have hc : s.command = frame hw s.idr opc s.addr := by simp only [State.command, hp, ho, Option.bind_some]
  rw [hf] at hc
  have hs : step s = runFrame (opc :: bigEndianBytes w s.addr.toNat) s := by
    rw [step_busy hq.1 hb, dropRequest_of_none hq.2, stepBusy, phaseRow_none (by simp [hc]), stepCommand, hc]
  exact ⟨_, hs.trans (runFrame_frame ho hf)⟩

/-- A running operation makes a step. -/
theorem exists_step {s : State} (h : s.Inv) (hq : s.quiet) (hb : s.seq ≠ .idle) : ∃ t, step s = .next t := by
  cases hr : phaseRow s with
  | some t => exact ⟨t, step_phaseRow hq hr⟩
  | none =>
    cases hp : s.seq with
    | iTx => exact ⟨_, step_iTx hq.1 hp⟩
    | wTx => exact ⟨_, step_wTx hq.1 hp⟩
    | pTx => exact ⟨_, step_pTx hq.1 hp⟩
    | dCmd => exact exists_step_dCmd h hq hp
    | _ => simp [phaseRow, hp] at hr hb

/-- The clear loop comes to its end, by what is left of it (43_data_operations.md R172). -/
theorem clear_left {s : State} {m : Nat} (hq : s.quiet) (hp : s.seq = .dClr) (hm : s.idx.toNat + m = s.len.toNat) :
    ∃ t, Reaches s t ∧ (t.seq = .dDes ∨ t.seq = .idle) := by
  have row : step s = .next (rowDClr s) := step_phaseRow hq (by simp [phaseRow, hp])
  induction m generalizing s with
  | zero =>
    have hi : s.idx = s.len := BitVec.eq_of_toNat_eq hm
    rw [rowDClr, if_pos hi] at row
    exact ⟨_, .cons row (.refl _), .inl rfl⟩
  | succ m ih =>
    have hi : s.idx ≠ s.len := by bv_omega
    rw [rowDClr, if_neg hi] at row
    rcases onAck_cases s (s.env.transmit [hw.clearByte]) (fun t => t.bumpIdx.goto .dClr) (State.raise .spiError) with
      ⟨-, ht⟩ | ⟨-, ht⟩
    · rw [ht] at row
      have hm' : (s.idx + 1#32).toNat + m = s.len.toNat := by bv_omega
      obtain ⟨t, hr, hend⟩ := ih (s := ((s.setEnv (s.env.transmit [hw.clearByte]).2).bumpIdx).goto .dClr) hq rfl
        hm' (step_phaseRow hq rfl)
      exact ⟨t, .cons row hr, hend⟩
    · rw [ht] at row
      exact ⟨_, .cons row (.refl _), .inr rfl⟩

/-- How far a phase is from IDLE, the rounds of the handshake and of the clear loop not counted. -/
def Phase.rank : Phase → Nat
  | .idle => 0
  | .dDes | .iDec => 1
  | .dWr | .dRd | .dClr | .iDes => 2
  | .dCmd | .iRx => 3
  | .dSel | .iTx => 4
  | .pSel | .iSel => 5
  | .pTime | .wDes => 6
  | .pDes | .wTx => 7
  | .pRx | .wSel => 8
  | .pTx | .wT0 => 9
  | .dChk => 10

/-- Every edge but those that start a round leads nearer to IDLE. -/
theorem rank_lt_of_edge {p q : Phase} (hi : p ≠ .idle) (hs : p ≠ .pSel) (hc : p ≠ .dClr) (he : q ∈ edges p) :
    q.rank < p.rank := by
  revert q
  cases p
  case idle => exact absurd rfl hi
  case pSel => exact absurd rfl hs
  case dClr => exact absurd rfl hc
  all_goals decide

/-- A state from which every operation ends: it fits, the host is quiet, the clock keeps its promise. -/
structure State.Promising (s : State) : Prop where
  inv : s.Inv
  quiet : s.quiet
  clock : s.keepsClockPromise

theorem State.Promising.of_reaches {s t : State} (h : s.Promising) (hr : Reaches s t) : t.Promising where
  inv := hr.induct invariantKept h.inv
  quiet := hr.induct (fun _ _ => step_quiet) h.quiet
  clock u hu := h.clock u (hr.trans hu)

/-- From a running operation a phase nearer to IDLE is reached. -/
theorem State.Promising.reaches_nearer {s : State} (h : s.Promising) (hb : s.seq ≠ .idle) :
    ∃ t, Reaches s t ∧ t.seq.rank < s.seq.rank := by
  by_cases hp : s.seq = .pSel
  · obtain ⟨t, hr, ht⟩ := handshake_left h.quiet hp (h.clock s (.refl s) hp)
    refine ⟨t, hr, ?_⟩
    rcases ht with ht | ⟨ht, -⟩ <;> rw [ht, hp] <;> decide
  by_cases hc : s.seq = .dClr
  · obtain ⟨t, hr, ht⟩ := clear_left h.quiet hc (Nat.add_sub_cancel' (h.inv.clear hc).2)
    refine ⟨t, hr, ?_⟩
    rcases ht with ht | ht <;> rw [ht, hc] <;> decide
  obtain ⟨t, hs⟩ := exists_step h.inv h.quiet hb
  exact ⟨t, .cons hs (.refl t), rank_lt_of_edge hb hp hc (phaseEdges s t h.quiet.1 hs)⟩

/-- By induction on the rank IDLE is reached. -/
theorem State.Promising.reaches_idle {s : State} (h : s.Promising) : ∃ t, Reaches s t ∧ t.seq = .idle := by
  induction hn : s.seq.rank using Nat.strong_induction_on generalizing s with
  | _ n ih =>
    by_cases hb : s.seq = .idle
    · exact ⟨s, .refl s, hb⟩
    · obtain ⟨u, hu, hlt⟩ := h.reaches_nearer hb
      obtain ⟨t, ht, hi⟩ := ih _ (hn ▸ hlt) (h.of_reaches hu) rfl
      exact ⟨t, hu.trans ht, hi⟩

/-- Settles O21: rounds that decide nothing, and under the clock's promise the loop's end and the operation's. -/
theorem handshakeCanHang : Obligations.HandshakeCanHang := by
  unfold Obligations.HandshakeCanHang
  refine ⟨fun k s rest hq hp h => ?_, fun _ _ => pollLoop_undecided, fun s ⟨n, hn⟩ => ⟨n + 1, pollLoop_decided hn⟩,
    fun s => handshake_left, fun s hi hq hc => State.Promising.reaches_idle ⟨hi, hq, hc⟩⟩
  obtain ⟨f, hsteps, hs, hh⟩ := hang_steps hq h
  rw [State.on_of_seq hp, State.on_of_seq hp] at hsteps
  exact ⟨_, hsteps, rfl, hs, hh⟩

end Sys2Proof.Machine

/-! O23, O25, O26, O27: BOUNDS, the phase D_CHK, and the bytes of a frame (42_framing_and_bounds.md R150, R156 to
R158). -/

namespace Sys2Proof.Machine

open Config (Cfg hw)

/-! ### BOUNDS (42_framing_and_bounds.md R156) -/

theorem exec_bounds (size a n : Word) (s : State) :
    exec (.bounds size a n) s =
      .next { s with micro := .status (if boundsOk size a n then .ok else .addressError) } := rfl

section

variable {size a n : Word}

theorem boundsOk_eq_false_iff : boundsOk size a n = false ↔ size.toNat < a.toNat + n.toNat := by
  rw [← Bool.not_eq_true, boundsOk_iff, Nat.not_le]

/-- The form of BOUNDS that needs no 33-bit adder: where `a` is in range, `size - a` does not wrap. -/
theorem boundsOk_iff_le_sub : boundsOk size a n = true ↔ a ≤ size ∧ n ≤ size - a := by
  rw [boundsOk_iff]
  constructor
  · intro h
    have ha : a ≤ size := BitVec.le_def.2 (by omega)
    refine ⟨ha, BitVec.le_def.2 ?_⟩
    rw [BitVec.toNat_sub_of_le ha]
    omega
  · rintro ⟨ha, hn⟩
    rw [BitVec.le_def, BitVec.toNat_sub_of_le ha] at hn
    have := BitVec.le_def.1 ha
    omega

/-! ### The original idiom (42_framing_and_bounds.md R157, 90_conflicts.md C1) -/

/-- Subtracting does not exceed the minuend exactly when it does not wrap. -/
theorem toNat_sub_le_iff {x y : Word} : (x - y).toNat ≤ x.toNat ↔ y.toNat ≤ x.toNat := by
  bv_omega

/-- The idiom is BOUNDS on the sum modulo 2^32. -/
theorem idiomAccepts_iff : idiomAccepts size a n = true ↔ (a.toNat + n.toNat) % 2 ^ 32 ≤ size.toNat := by
  rw [idiomAccepts, decide_eq_true_eq, sub_sub, toNat_sub_le_iff, BitVec.toNat_add]

end

/-- Settles O26: the sum modulo 2^32 is the sum below 2^32, and the sum less 2^32 from there on. -/
theorem wraparoundIdiomBand : Obligations.WraparoundIdiomBand := by
  unfold Obligations.WraparoundIdiomBand
  intro size a n
  have hs := size.isLt
  have ha := a.isLt
  have hn := n.isLt
  refine ⟨fun h => ?_, fun h => ?_, fun h => ?_⟩
  · rw [Bool.eq_iff_iff, idiomAccepts_iff, boundsOk_iff, Nat.mod_eq_of_lt h]
  · exact boundsOk_eq_false_iff.2 (hs.trans_le h)
  · rw [idiomAccepts_iff]
    omega

/-! ### The phase D_CHK (10_state.md R30, 42_framing_and_bounds.md R156, R158) -/

section

variable {s : State}

theorem step_dChk (hr : s.resetLine = false) (hp : s.seq = .dChk) : step s = .next (rowDChk s.dropRequest) :=
  step_row hr (by simp [hp]) (by simp [phaseRow, hp])

theorem step_dChk_within (hr : s.resetLine = false) (hp : s.seq = .dChk)
    (h : s.addr.toNat + s.len.toNat ≤ s.size.toNat) : step s = .next (s.dropRequest.goto .wT0) := by
  have hb : boundsOk s.size s.addr s.len = true := boundsOk_iff.2 h
  rw [step_dChk hr hp, rowDChk]
  exact congrArg _ (if_pos hb)

theorem step_dChk_beyond (hr : s.resetLine = false) (hp : s.seq = .dChk)
    (h : s.size.toNat < s.addr.toNat + s.len.toNat) : step s = .next (s.dropRequest.raise .addressError) := by
  have hb : ¬ boundsOk s.size s.addr s.len = true := by rw [boundsOk_iff]; omega
  rw [step_dChk hr hp, rowDChk]
  exact congrArg _ (if_neg hb)

end

/-- Settles O25: BOUNDS on the operands, and on the registers in D_CHK. -/
theorem boundsDecision : Obligations.BoundsDecision := by
  unfold Obligations.BoundsDecision
  intro size a n s
  refine ⟨fun h => ?_, fun h => ?_, boundsOk_iff_le_sub, fun hr hp => ?_⟩
  · rw [exec_bounds, boundsOk_iff.2 h, if_pos rfl]
  · rw [exec_bounds, boundsOk_eq_false_iff.2 h, if_neg Bool.false_ne_true]
  · rcases Nat.lt_or_ge s.size.toNat (s.addr.toNat + s.len.toNat) with h | h
    · exact ⟨_, step_dChk_beyond hr hp h, by simp, fun hle => absurd h (Nat.not_lt.2 hle), fun _ => ⟨rfl, rfl⟩⟩
    · exact ⟨_, step_dChk_within hr hp h, rfl, fun _ => rfl, fun hlt => absurd h (Nat.not_le.2 hlt)⟩

/-! ### A rejected range (42_framing_and_bounds.md R158) -/

/-- In IDLE a data operation that is not refused has been accepted. -/
theorem State.eq_accept_of_acceptData {s t : State} {o : OpSel} {a n : Word} (hi : s.seq = .idle)
    (h : s.acceptData o a n = .next t) : t = s.accept o a n .dChk := by
  cases hu : s.usable with
  | true => rw [acceptData_of_usable o a n hi hu] at h; cases h; rfl
  | false => rw [acceptData_of_not_usable o a n hi hu] at h; cases h

/-- Settles O27: acceptance makes no call, and the row of D_CHK that rejects is the abort. -/
theorem addressErrorBeforeAnyCall : Obligations.AddressErrorBeforeAnyCall := by
  unfold Obligations.AddressErrorBeforeAnyCall
  refine ⟨fun a n i s t hmem hi hx => ?_, fun s hr hp hout => ?_⟩
  · obtain ⟨o, a', n', ho⟩ : ∃ o a' n', exec i s = s.acceptData o a' n' := by
      simp only [List.mem_cons, List.not_mem_nil, or_false] at hmem
      rcases hmem with rfl | rfl | rfl | rfl
      · exact ⟨.read, a, n, rfl⟩
      · exact ⟨.write, a, n, rfl⟩
      · exact ⟨.clear, a, n, rfl⟩
      · exact ⟨.erase, 0#32, s.size, rfl⟩
    rw [ho] at hx
    rw [State.eq_accept_of_acceptData hi hx]
    exact ⟨rfl, rfl⟩
  · refine ⟨_, step_dChk_beyond hr hp hout, by simp, by simp, by simp, ?_, fun ho => ?_⟩
    · rw [State.raise_eq]
      rfl
    · rw [State.raise_env, State.dropRequest_op, if_neg ho]
      rfl

/-! ### The bytes of a frame (42_framing_and_bounds.md R150) -/

/-- The bytes of a register are its groups of eight bits. -/
theorem byteOf_toNat (a : Word) (i : Nat) : byteOf a.toNat i = a.extractLsb' (8 * i) 8 := by
  apply BitVec.eq_of_toNat_eq
  simp [byteOf, BitVec.extractLsb'_toNat, Nat.shiftRight_eq_div_pow]

/-- Three address bytes drop the top byte of a register. -/
theorem bigEndianBytes_three_word (a : Word) :
    bigEndianBytes 3 a.toNat = [a.extractLsb' 16 8, a.extractLsb' 8 8, a.extractLsb' 0 8] := by
  simp only [bigEndianBytes_succ, byteOf_toNat]
  rfl

/-- Legacy mode keeps the low byte of the address. -/
theorem extractLsb'_low_byte (a : Word) : (a &&& 0xFF#32).extractLsb' 0 8 = a.extractLsb' 0 8 := by
  rw [BitVec.extractLsb'_and]
  exact BitVec.and_allOnes

/-- Legacy mode zeroes the bytes above the low one. -/
theorem extractLsb'_high_byte (a : Word) {k : Nat} (hk : 8 ≤ k) : (a &&& 0xFF#32).extractLsb' k 8 = 0x00#8 := by
  have hmask : (0xFF#32).extractLsb' k 8 = 0#8 := by
    have hlt : 255 < 2 ^ k := Nat.lt_of_lt_of_le (by decide) (Nat.pow_le_pow_right (by decide) hk)
    apply BitVec.eq_of_toNat_eq
    simp [BitVec.extractLsb'_toNat, Nat.shiftRight_eq_div_pow, Nat.div_eq_of_lt hlt]
  rw [BitVec.extractLsb'_and, hmask, BitVec.and_zero]

/-- An address of one byte is its own low byte. -/
theorem and_low_byte {a : Word} (h : a.toNat < 256) : a &&& 0xFF#32 = a := by
  apply BitVec.eq_of_toNat_eq
  calc (a &&& 0xFF#32).toNat = a.toNat &&& (2 ^ 8 - 1) := BitVec.toNat_and ..
    _ = a.toNat % 2 ^ 8 := Nat.and_two_pow_sub_one_eq_mod ..
    _ = a.toNat := Nat.mod_eq_of_lt h

section

variable {c : Cfg} {r : IdReg} (opc : Byte) (a : Word)

theorem frame_of_no_width (h : addressWidth c (density c r) = none) : frame c r opc a = none := by
  rw [frame, h, Option.map_none]

/-- FRAME in either mode: the opcode and the bytes of the value the mode takes. -/
theorem frame_of_width {w : Nat} (h : addressWidth c (density c r) = some w) :
    frame c r opc a = some (opc :: bigEndianBytes w (frameValue c a).toNat) := by
  rw [frame, h, Option.map_some, addressBytes_eq]

theorem frame_of_width_three (h : addressWidth c (density c r) = some 3) :
    frame c r opc a = some (match c.frameMode with
      | .corrected => [opc, a.extractLsb' 16 8, a.extractLsb' 8 8, a.extractLsb' 0 8]
      | .legacy => [opc, 0x00#8, 0x00#8, a.extractLsb' 0 8]) := by
  rw [frame_of_width opc a h, bigEndianBytes_three_word]
  cases hm : c.frameMode with
  | corrected => simp only [frameValue, hm]
  | legacy => simp only [frameValue, hm, extractLsb'_low_byte, extractLsb'_high_byte a (k := 8) (by decide),
      extractLsb'_high_byte a (k := 16) (by decide)]

theorem frame_of_width_four (h : addressWidth c (density c r) = some 4) :
    frame c r opc a = some (match c.frameMode with
      | .corrected => [opc, a.extractLsb' 24 8, a.extractLsb' 16 8, a.extractLsb' 8 8, a.extractLsb' 0 8]
      | .legacy => [opc, 0x00#8, 0x00#8, 0x00#8, a.extractLsb' 0 8]) := by
  rw [frame_of_width opc a h, bigEndianBytes_four]
  cases hm : c.frameMode with
  | corrected => simp only [frameValue, hm]
  | legacy => simp only [frameValue, hm, extractLsb'_low_byte, extractLsb'_high_byte a (k := 8) (by decide),
      extractLsb'_high_byte a (k := 16) (by decide), extractLsb'_high_byte a (k := 24) (by decide)]

/-- Both modes take the same value from an address of one byte, and the width does not depend on the mode. -/
theorem frame_legacy_eq_corrected (h : a.toNat < 256) :
    frame { c with frameMode := .legacy } r opc a = frame { c with frameMode := .corrected } r opc a := by
  have hv : frameValue { c with frameMode := .legacy } a = frameValue { c with frameMode := .corrected } a :=
    and_low_byte h
  simp only [frame, addressBytes, hv]
  rfl

end

theorem exec_frame (opc : Byte) (a : Word) (s : State) :
    exec (.frame opc a) s = .next { s with micro := .frame (frame hw s.idr opc a) } := rfl

/-- A usable part has an address width. -/
theorem exists_addressWidth_of_usable {s : State} (h : s.usable = true) :
    ∃ w, addressWidth hw (density hw s.idr) = some w :=
  (addressWidth_of_usable h).elim (fun h3 => ⟨3, h3.1⟩) fun h4 => ⟨4, h4⟩

/-! The model has a definition `frameBytes`; the theorem of that name stands in a namespace of its own. -/

namespace Framing

/-- Settles O23: the bytes of the value the mode takes; in D_CMD the invariant has ADDR inside a usable part. -/
theorem frameBytes : Obligations.FrameBytes := by
  unfold Obligations.FrameBytes
  refine ⟨exec_frame, fun c r opc a => ⟨frame_of_no_width opc a, frame_of_width_three opc a,
    frame_of_width_four opc a, frame_legacy_eq_corrected opc a⟩, fun s hinv hp => ?_⟩
  obtain ⟨-, hu⟩ := hinv.data (by simp [hp, Phase.isData, Phase.isChecked])
  obtain ⟨w, haw⟩ := exists_addressWidth_of_usable hu
  refine ⟨w, haw, ?_⟩
  rintro rfl
  have hrange := hinv.range (by simp [hp, Phase.isChecked])
  have hfits : s.addr.toNat < 2 ^ 24 := address_fits hu haw (by omega)
  apply BitVec.eq_of_toNat_eq
  simp only [BitVec.extractLsb'_toNat, Nat.shiftRight_eq_div_pow, Nat.div_eq_of_lt hfits, Nat.zero_mod,
    BitVec.toNat_ofNat]

end Framing

end Sys2Proof.Machine

/-! O57, O41, O45: running operations never stop; the data phase without a byte; ERASE twice on the responder. -/

namespace Sys2Proof.Machine

open Config (hw)

/-! ### Progress (43_data_operations.md R174, 30_encoding.md R92) -/

section

variable {s : State}

/-- A busy step does not read the request presented. -/
theorem step_dropRequest (hr : s.resetLine = false) (hb : s.seq ≠ .idle) : step s.dropRequest = step s := by
  have hr' : s.dropRequest.resetLine = false := hr
  have hb' : s.dropRequest.seq ≠ .idle := hb
  rw [step_busy hr hb, step_busy hr' hb']
  rfl

/-- A running operation makes a step, whatever the host presents. -/
theorem exists_step_of_busy (h : s.Inv) (hr : s.resetLine = false) (hb : s.seq ≠ .idle) : ∃ t, step s = .next t := by
  obtain ⟨t, hs⟩ := exists_step h.dropRequest ⟨hr, rfl⟩ hb
  exact ⟨t, (step_dropRequest hr hb).symm.trans hs⟩

/-- The refusals of a request taken in IDLE: a data operation on a state that is not usable, and the reserved
selectors. -/
def IdleRefusal (s : State) (why : Refusal) : Prop :=
  (why = .notUsable ∧ s.usable = false) ∨
    why ∈ [.reservedSelector 0#3, .reservedSelector 6#3, .reservedSelector 7#3]

theorem idleRefusal_of_acceptData {o : OpSel} {a n : Word} {why : Refusal} (hi : s.seq = .idle)
    (h : s.acceptData o a n = .refused why) : IdleRefusal s why := by
  cases hu : s.usable with
  | true => rw [State.acceptData_of_usable o a n hi hu] at h; cases h
  | false => rw [State.acceptData_of_not_usable o a n hi hu] at h; cases h; exact .inl ⟨rfl, hu⟩

theorem idleRefusal_of_exec_request {q : BitVec 67} {why : Refusal} (hi : s.seq = .idle)
    (h : exec (decodeReq q) s = .refused why) : IdleRefusal s why := by
  have hspace := decodeReq_space q
  generalize decodeReq q = i at h hspace
  cases i with
  | init a n => simp only [exec, execInit, hi, if_true] at h; cases h
  | read | write | clear | erase => exact idleRefusal_of_acceptData hi h
  | reservedOp0 | reservedOp6 | reservedOp7 => cases h; exact .inr (by simp)
  | _ => cases hspace

/-- The idle controller refuses only as it takes a request. -/
theorem idleRefusal_of_step {why : Refusal} (hr : s.resetLine = false) (hi : s.seq = .idle)
    (hs : step s = .refused why) : IdleRefusal s why := by
  rw [step_idle hr hi, stepIdle] at hs
  cases ht : s.takeRequest with
  | none => rw [ht] at hs; cases hs
  | some p =>
    obtain ⟨r, u⟩ := p
    rw [ht] at hs
    have hu := takeRequest_eq ht
    have hidle : u.seq = .idle := by rw [hu]; exact hi
    have husable : u.usable = s.usable := by rw [hu]; rfl
    have hwhy := idleRefusal_of_exec_request hidle hs
    rwa [IdleRefusal, husable] at hwhy

end

/-- Settles O57: under the invariant every busy row answers next, and so does a reset. -/
theorem runningOperationsNeverStop : Obligations.RunningOperationsNeverStop := by
  unfold Obligations.RunningOperationsNeverStop
  intro s hinv
  have progress : s.seq ≠ .idle ∨ s.resetLine = true → ∃ t, step s = .next t := by
    intro h
    cases hr : s.resetLine with
    | true => exact ⟨_, step_reset hr⟩
    | false => exact exists_step_of_busy hinv hr (h.resolve_right (by simp [hr]))
  refine ⟨progress, fun why hs => ?_⟩
  have hno : ¬ (s.seq ≠ .idle ∨ s.resetLine = true) := fun h => by
    obtain ⟨t, ht⟩ := progress h
    rw [hs] at ht
    cases ht
  rw [not_or, not_not, Bool.not_eq_true] at hno
  obtain ⟨hi, hr⟩ := hno
  exact ⟨hi, idleRefusal_of_step hr hi hs⟩

/-! ### No byte (43_data_operations.md R178) -/

/-- The row D_RD: an abort, or the bytes received in RDATA. -/
theorem rowDRd_cases (s : State) :
    (rowDRd s).env.history = .rx s.len.toNat none :: s.env.history ∨
      ∃ bs, bs.length = s.len.toNat ∧ (rowDRd s).rdata = .bytes bs ∧
        (rowDRd s).env.history = .rx s.len.toNat (some bs) :: s.env.history := by
  unfold rowDRd
  cases hr : (s.env.receive s.len.toNat).1 with
  | none => exact .inl (by simp [hr])
  | some bs => exact .inr ⟨bs, s.env.receive_length hr, rfl, by simp [hr]⟩

/-- Settles O41: a call of no byte in D_WR and D_RD, and the loop's end at once in D_CLR. -/
theorem zeroLengthDataPhase : Obligations.ZeroLengthDataPhase := by
  unfold Obligations.ZeroLengthDataPhase
  intro s t hr hl hs
  have hlen : s.len.toNat = 0 := by rw [hl]; rfl
  have row {u} (hb : s.seq ≠ .idle) (h : phaseRow s.dropRequest = some u) : t = u := by
    rw [step_row hr hb h] at hs
    cases hs
    rfl
  refine ⟨fun hp => ?_, fun hp => ?_, fun hp hi => ?_⟩
  · have call := oneCallPerStep s t hr hs
    rw [if_neg (by simp [hp])] at call
    obtain ⟨c, hc, hh⟩ := call
    simp only [callOf, hp] at hc
    obtain ⟨bs, ok, rfl, hbs, -⟩ := hc
    obtain rfl : bs = [] := List.eq_nil_of_length_eq_zero (hbs.trans hlen)
    exact ⟨ok, hh⟩
  · obtain rfl := row (u := rowDRd s.dropRequest) (by simp [hp]) (by simp [phaseRow, hp])
    have h := rowDRd_cases s.dropRequest
    rw [State.dropRequest_len, State.dropRequest_env, hlen] at h
    refine h.imp_right ?_
    rintro ⟨bs, hbs, hd, hh⟩
    obtain rfl : bs = [] := List.eq_nil_of_length_eq_zero hbs
    exact ⟨hh, hd⟩
  · obtain rfl := row (u := rowDClr s.dropRequest) (by simp [hp]) (by simp [phaseRow, hp])
    have hend : s.dropRequest.idx = s.dropRequest.len := hi.trans hl.symm
    rw [rowDClr, if_pos hend]
    exact ⟨rfl, rfl⟩

/-! ### ERASE (43_data_operations.md R173) on the reference responder -/

/-- ERASE leaves the whole array zero, and a responder that fits. -/
theorem erase_storesZero {s : State} {c : Chip} (a n : Word) (h : respondsWell s c) :
    ∃ u t d, exec (.erase a n) s = .next u ∧ Steps (13 + s.size.toNat) u t ∧ t.seq = .idle ∧ t.result = .ok ∧
      t.size = s.size ∧ (∀ x, x < s.size.toNat → t.memRead x = some 0x00#8) ∧ respondsWell t d := by
  have hr := h
  obtain ⟨-, hidle, hu, -⟩ := hr
  obtain ⟨t, steps, ht⟩ := clearing_storesOk (a := 0#32) (n := s.size) h (.inr rfl) (Nat.zero_add _).le
  obtain ⟨d, hd, -⟩ := ht.responds
  have zero x (hx : x < s.size.toNat) : t.memRead x = some 0x00#8 := by
    have hin := ht.inside x (by rwa [List.length_replicate])
    rwa [BitVec.toNat_zero, Nat.zero_add, List.getElem?_replicate, if_pos hx] at hin
  exact ⟨_, t, d, State.acceptData_of_usable .erase 0#32 s.size hidle hu, steps, ht.idle, ht.ok, ht.size, zero, hd⟩

/-- Settles O45: the responder still fits after an ERASE, so the next does the same. -/
theorem eraseTwiceOnResponder : Obligations.EraseTwiceOnResponder := by
  unfold Obligations.EraseTwiceOnResponder
  intro s c a n a' n' h
  obtain ⟨u, t, d, hu, hsteps, -, hok, hsize, hzero, hd⟩ := erase_storesZero a n h
  obtain ⟨v, w, -, hv, hsteps', hidle, hok', -, hzero', -⟩ := erase_storesZero a' n' hd
  rw [hsize] at hsteps' hzero'
  exact ⟨u, t, v, w, hu, hsteps, hv, hsteps', hok, hok', hidle, fun x hx => ⟨hzero x hx, hzero' x hx⟩⟩

end Sys2Proof.Machine

/-! O32, O33, O34: the sequencer performs the pseudocode of the data operations (43_data_operations.md R170 to R173). -/

namespace Sys2Proof.Machine

open Config (hw)

/-! ### A chain of calls and the phases that make them (43_data_operations.md R175) -/

/-- Where the end of a chain of calls leads the sequencer: on with `next`, or into the abort. -/
def proceed (next : State → State) (p : Result × State) : State := if p.1 = .ok then next p.2 else p.2.raise p.1

theorem State.goto_raise (s : State) (p : Phase) (r : Result) : (s.goto p).raise r = s.raise r := by
  rw [raise_eq, raise_eq]; rfl

/-- The edges of an ok-or-fail call, of which `next` does not read the phase. -/
theorem onAck_goto (s : State) (p : Phase) {call : Bool × Env} {next : State → State} {r : Result} (hr : r ≠ .ok)
    (hn : ∀ u : State, next (u.goto p) = next u) :
    (s.goto p).onAck call next (State.raise r) = proceed next (if call.1 then .ok else r, s.setEnv call.2) := by
  obtain ⟨_ | _, e⟩ := call
  · exact (State.goto_raise (s.setEnv e) p r).trans (if_neg hr).symm
  · exact hn (s.setEnv e)

/-- The sequencer performs a chain as it performs its two parts. -/
theorem reaches_andThen {s : State} {p : Result × State} {k : State → Result × State} {mid last : State → State}
    (h : Reaches s (proceed mid p)) (hk : p.1 = .ok → Reaches (mid p.2) (proceed last (k p.2))) :
    Reaches s (proceed last (andThen p k)) := by
  by_cases hp : p.1 = .ok
  · rw [andThen_ok hp]
    rw [proceed, if_pos hp] at h
    exact h.trans (hk hp)
  · rw [andThen_fail hp, proceed, if_neg hp]
    rwa [proceed, if_neg hp] at h

/-- From `enter` the sequencer performs `k` and goes on with `next`; the host stays quiet. -/
def Performs (enter : State → State) (k : State → Result × State) (next : State → State) : Prop :=
  ∀ s : State, s.quiet → (k s).2.quiet ∧ Reaches (enter s) (proceed next (k s))

/-! ### The phases of one call (10_state.md R30) -/

section

variable {s : State} (hq : s.quiet)
include hq

theorem step_select_goto (p q : Phase) (h : (p, q) ∈ [(.wSel, .wTx), (.dSel, .dCmd)]) :
    step (s.goto p) = .next (proceed (State.goto q) (callCs Env.select s)) := by
  have row : phaseRow (s.goto p) = some ((s.goto p).onAck s.env.select (State.goto q) (State.raise .csError)) := by
    simp only [List.mem_cons, Prod.mk.injEq, List.not_mem_nil, or_false] at h
    rcases h with ⟨rfl, rfl⟩ | ⟨rfl, rfl⟩ <;> rfl
  exact step_phaseRow hq (row.trans (congrArg some (onAck_goto s p nofun fun _ => rfl)))

theorem step_wDes_goto : step (s.goto .wDes) = .next (proceed (State.goto .pSel) (callCs Env.deselect s)) :=
  step_phaseRow hq (congrArg some (onAck_goto s .wDes nofun fun _ => rfl))

theorem step_dDes_goto : step (s.goto .dDes) = .next (proceed State.finishOk (callCs Env.deselect s)) :=
  step_phaseRow hq (congrArg some (onAck_goto s .dDes nofun fun _ => rfl))

/-- A command phase whose frame is `bs`. -/
theorem step_command_goto {p : Phase} {bs : List Byte} {next : State → State}
    (hs : step (s.goto p) = transmitCommand bs next (State.raise .spiError) (s.goto p).dropRequest)
    (hn : ∀ u : State, next (u.goto p) = next u) : step (s.goto p) = .next (proceed next (callTx bs s)) := by
  rw [hs, dropRequest_of_none (s := s.goto p) hq.2]
  exact congrArg Host.Outcome.next (onAck_goto s p nofun hn)

theorem step_dWr_goto : step (s.goto .dWr) = .next (proceed (State.goto .dDes) (writePhase s)) :=
  step_phaseRow hq (congrArg some (onAck_goto s .dWr nofun fun _ => rfl))

theorem step_dRd_goto : step (s.goto .dRd) = .next (proceed (State.goto .dDes) (readPhase s)) := by
  refine step_phaseRow hq (congrArg some ?_)
  rw [rowDRd, readPhase, callRx, State.goto_env, State.goto_len]
  cases (s.env.receive s.len.toNat).1 with
  | none => exact State.goto_raise (s.setEnv _) .dRd .spiError
  | some bs => rfl

/-- One byte of the clear loop. -/
theorem step_dClr_goto (hi : s.idx ≠ s.len) :
    step (s.goto .dClr) = .next (proceed (fun t => t.bumpIdx.goto .dClr) (callTx [hw.clearByte] s)) :=
  step_phaseRow hq (congrArg some ((if_neg hi).trans (onAck_goto s .dClr nofun fun _ => rfl)))

/-- The select of a bracket and its command. -/
theorem bracket_reaches (p q : Phase) (h : (p, q) ∈ [(.wSel, .wTx), (.dSel, .dCmd)]) {bs : List Byte}
    {next : State → State} (hn : ∀ u : State, next (u.goto q) = next u)
    (hs : ∀ e, step ((s.setEnv e).goto q) =
      transmitCommand bs next (State.raise .spiError) ((s.setEnv e).goto q).dropRequest) :
    Reaches (s.goto p) (proceed next (andThen (callCs Env.select s) (callTx bs))) :=
  reaches_andThen (.cons (step_select_goto hq p q h) (.refl _)) fun _ =>
    .cons (step_command_goto (s := s.setEnv s.env.select.2) hq (hs _) hn) (.refl _)

end

/-- A bracket's select and command write no register. -/
theorem bracket_eq (bs : List Byte) (s : State) :
    ∃ r e, andThen (callCs Env.select s) (callTx bs) = (r, s.setEnv e) := by
  rcases callCs_cases Env.select s with ⟨-, h⟩ | ⟨-, h⟩
  · exact ⟨_, _, by rw [h, andThen_mk_ok]; rfl⟩
  · exact ⟨_, _, by rw [h, andThen_mk_csError]⟩

/-! ### The data phases (43_data_operations.md R170 to R172) -/

theorem performs_writePhase : Performs (State.goto .dWr) writePhase (State.goto .dDes) := fun _ hq =>
  ⟨hq, .cons (step_dWr_goto hq) (.refl _)⟩

theorem performs_readPhase : Performs (State.goto .dRd) readPhase (State.goto .dDes) := fun s hq => by
  refine ⟨?_, .cons (step_dRd_goto hq) (.refl _)⟩
  rw [readPhase, callRx]
  cases (s.env.receive s.len.toNat).1 <;> exact hq

/-- The loop, by the bytes still to be sent. -/
theorem clearLoop_performed {s : State} {n : Nat} (hq : s.quiet) (hn : s.idx.toNat + n = s.len.toNat) :
    (clearLoop n s).2.quiet ∧ Reaches (s.goto .dClr) (proceed (State.goto .dDes) (clearLoop n s)) := by
  induction n generalizing s with
  | zero => exact ⟨hq, .cons (step_dClr_end (s := s) (e := s.env) hq (BitVec.eq_of_toNat_eq hn)) (.refl _)⟩
  | succ n ih =>
    have byte := Reaches.cons (step_dClr_goto hq (by bv_omega)) (.refl _)
    obtain ⟨hq', hr⟩ := ih (s := (s.setEnv (s.env.transmit [hw.clearByte]).2).bumpIdx) hq
      (show (s.idx + 1#32).toNat + n = s.len.toNat by bv_omega)
    refine ⟨?_, reaches_andThen byte fun _ => hr⟩
    rw [clearLoop]
    rcases callTx_cases [hw.clearByte] s with ⟨-, h⟩ | ⟨-, h⟩
    · rw [h, andThen_mk_ok]; exact hq'
    · rw [h, andThen_mk_spiError]; exact hq

theorem performs_clearPhase : Performs State.startClear clearPhase (State.goto .dDes) := fun s hq =>
  clearLoop_performed (s := { s with idx := 0#32 }) hq (Nat.zero_add _)

/-! ### The handshake (41_wel_handshake.md R133) -/

/-- GET_WEL does not read the phase. -/
theorem getWel_goto (s : State) (p : Phase) : getWel (s.goto p) = ((getWel s).1, (getWel s).2.goto p) := by
  rcases h1 : s.env.select with ⟨_ | _, e1⟩
  · rw [getWel_select_fail h1, getWel_select_fail (s := s.goto p) h1]; rfl
  rcases h2 : e1.transmit [0x05#8] with ⟨_ | _, e2⟩
  · rw [getWel_transmit_fail h1 h2, getWel_transmit_fail (s := s.goto p) h1 h2]; rfl
  rcases h3 : e2.receive 1 with ⟨_ | bs, e3⟩
  · rw [getWel_receive_fail h1 h2 h3, getWel_receive_fail (s := s.goto p) h1 h2 h3]; rfl
  obtain ⟨b, rfl⟩ := List.length_eq_one_iff.1 (e2.receive_length (congrArg Prod.fst h3))
  rcases h4 : e3.deselect with ⟨ok, e4⟩
  rw [getWel_read h1 h2 h3 h4, getWel_read (s := s.goto p) h1 h2 h3 h4]; rfl

/-- The polling loop does not read the phase. -/
theorem pollLoop_goto (polls : Nat) (s : State) (p : Phase) :
    pollLoop polls (s.goto p) = ((pollLoop polls s).1, (pollLoop polls s).2.goto p) := by
  induction polls generalizing s with
  | zero => rfl
  | succ n ih =>
    simp only [pollLoop, getWel_goto, State.goto_env, State.goto_t0]
    split_ifs
    · rfl
    · rfl
    · exact ih ((getWel s).2.setEnv (getWel s).2.env.now.2)

theorem handshakeExit_goto (r : Result) (t : State) (p : Phase) :
    handshakeExit (some r, t.goto p) = proceed (State.goto .dSel) (r, t) := by
  cases r with
  | ok => rfl
  | _ => exact State.goto_raise t p _

theorem welBracket_reaches {s : State} (hq : s.quiet) :
    Reaches (s.goto .wSel) (proceed (State.goto .pSel) (welBracket s)) := by
  refine reaches_andThen (mid := State.goto .wDes)
    (bracket_reaches hq .wSel .wTx (by decide) (fun _ => rfl) fun e => step_wTx hq.1 rfl) fun _ => ?_
  obtain ⟨r, e, he⟩ := bracket_eq (frameBytes .wWren) s
  rw [he]
  exact .cons (step_wDes_goto (s := s.setEnv e) hq) (.refl _)

/-- The write-enable bracket writes no register. -/
theorem welBracket_eq (s : State) : ∃ r e, welBracket s = (r, s.setEnv e) := by
  have h := welBracket_bracketed s
  generalize welBracket s = p at h ⊢
  cases h with
  | select e | transmit e => exact ⟨_, e, rfl⟩
  | deselect e ok => exact ⟨_, e, rfl⟩

/-- The polling loop writes no register but SR. -/
theorem pollLoop_eq (polls : Nat) (s : State) : ∃ r b e, pollLoop polls s = (r, { s with sr := b, env := e }) := by
  have h := pollLoop_looped polls s
  generalize pollLoop polls s = p at h ⊢
  cases h with
  | mk r b e => exact ⟨r, b, e, rfl⟩

/-- SET_WEL writes no register but T0 and SR. -/
theorem setWelWithin_eq (polls : Nat) (s : State) :
    ∃ r t0 b e, setWelWithin polls s = (r, { s with t0 := t0, sr := b, env := e }) := by
  obtain ⟨r, e, h⟩ := welBracket_eq s.readT0
  rw [setWelWithin, h]
  split
  · obtain ⟨r, b, e', hl⟩ := pollLoop_eq polls (s.readT0.setEnv e)
    exact ⟨r, s.readT0.t0, b, e', hl⟩
  · exact ⟨_, s.readT0.t0, s.sr, e, rfl⟩

/-- So it keeps the operation, and the host stays quiet. -/
theorem setWelWithin_keeps {polls : Nat} {s u : State} {r : Option Result} (hq : s.quiet)
    (hu : setWelWithin polls s = (r, u)) : u.op = s.op ∧ u.quiet := by
  obtain ⟨r', t0, b, e, h⟩ := setWelWithin_eq polls s
  rw [hu] at h
  cases h
  exact ⟨rfl, hq⟩

/-- From W_T0 the sequencer performs SET_WEL. -/
theorem setWelWithin_reaches {s t : State} {polls : Nat} {r : Result} (hq : s.quiet)
    (h : setWelWithin polls s = (some r, t)) : Reaches (s.goto .wT0) (proceed (State.goto .dSel) (r, t)) := by
  have t0 : step (s.goto .wT0) = .next (s.readT0.goto .wSel) := step_phaseRow hq rfl
  have bracket := welBracket_reaches (s := s.readT0) hq
  refine .cons t0 (bracket.trans ?_)
  obtain ⟨r', e, hb⟩ := welBracket_eq s.readT0
  rw [setWelWithin, hb] at h
  rw [hb, proceed]
  split at h
  · next hok =>
    have loop := pollLoop_reaches (s := (s.readT0.setEnv e).goto .pSel) hq rfl polls
    rw [pollLoop_goto, h, handshakeExit_goto] at loop
    rw [if_pos hok]
    exact loop
  · next hno =>
    cases h
    rw [if_neg hno, proceed, if_neg hno]
    exact .refl _

/-! ### The operations -/

section

variable {polls : Nat} {phase : State → Result × State} {s u : State}

theorem dataOperation_beyond (hb : ¬ boundsOk s.size s.addr s.len = true) :
    dataOperation polls phase s = some (s.raise .addressError) := by rw [dataOperation, if_neg hb]

variable (hb : boundsOk s.size s.addr s.len = true)
include hb

theorem dataOperation_polling (hu : setWelWithin polls s = (none, u)) : dataOperation polls phase s = none := by
  rw [dataOperation, if_pos hb, hu]

theorem dataOperation_failed {r : Result} (hu : setWelWithin polls s = (some r, u)) (hr : r ≠ .ok) :
    dataOperation polls phase s = some (u.raise r) := by
  rw [dataOperation, if_pos hb, hu]
  exact if_neg hr

theorem dataOperation_enabled {opc : Byte} (hu : setWelWithin polls s = (some .ok, u))
    (ho : u.op.opcode hw = some opc) :
    dataOperation polls phase s =
      (frame hw u.idr opc u.addr).map fun bs => conclude (dataBracket bs phase u) := by
  rw [dataOperation, if_pos hb, hu]
  simp only [if_true, ho, Option.bind_some]
  cases frame hw u.idr opc u.addr <;> rfl

end

/-- From D_SEL the sequencer performs the data bracket and ends the operation. -/
theorem dataBracket_reaches {s : State} {opc : Byte} {good : State → State} {bs : List Byte}
    {phase : State → Result × State} (hcmd : DataCommand s.op opc good)
    (hgood : ∀ u : State, good (u.goto .dCmd) = good u) (hphase : Performs good phase (State.goto .dDes))
    (hq : s.quiet) (hf : frame hw s.idr opc s.addr = some bs) :
    Reaches (s.goto .dSel) (conclude (dataBracket bs phase s)) := by
  have command := bracket_reaches hq .dSel .dCmd (by decide) hgood fun e =>
    hcmd ((s.setEnv e).goto .dCmd) hq.1 rfl rfl bs hf
  obtain ⟨r, e, he⟩ := bracket_eq bs s
  obtain ⟨hq', data⟩ := hphase (s.setEnv e) hq
  rw [he] at command
  rw [dataBracket, he]
  refine reaches_andThen (last := State.finishOk) (reaches_andThen command fun _ => data) fun hok => ?_
  rw [andThen_ok (andThen_eq_ok.1 hok).1]
  exact .cons (step_dDes_goto hq') (.refl _)

/-- From D_CHK the sequencer performs a data operation, by the data phase that follows its command. -/
theorem dataOperation_reaches {o : OpSel} {opc : Byte} {good : State → State} {phase : State → Result × State}
    (hopc : o.opcode hw = some opc) (hcmd : DataCommand o opc good)
    (hgood : ∀ u : State, good (u.goto .dCmd) = good u) (hphase : Performs good phase (State.goto .dDes))
    {polls : Nat} {s t : State} (hq : s.quiet) (hp : s.seq = .dChk) (ho : s.op = o)
    (h : dataOperation polls phase s = some t) : Reaches s t := by
  have check := step_dChk hq.1 hp
  rw [dropRequest_of_none hq.2, rowDChk] at check
  by_cases hb : boundsOk s.size s.addr s.len = true
  case neg =>
    rw [if_neg hb] at check
    rw [dataOperation_beyond hb] at h
    exact Option.some.inj h ▸ .cons check (.refl _)
  rw [if_pos hb] at check
  refine .cons check ?_
  obtain ⟨r, u, hu⟩ : ∃ r u, setWelWithin polls s = (r, u) := ⟨_, _, rfl⟩
  obtain ⟨hop, hquiet⟩ := setWelWithin_keeps hq hu
  cases r with
  | none => rw [dataOperation_polling hb hu] at h; cases h
  | some r =>
    have handshake := setWelWithin_reaches hq hu
    by_cases hr : r = .ok
    · subst hr
      have hop := hop.trans ho
      rw [dataOperation_enabled hb hu (by rw [hop]; exact hopc)] at h
      obtain ⟨bs, hf, rfl⟩ := Option.map_eq_some_iff.1 h
      exact handshake.trans (dataBracket_reaches (by rw [hop]; exact hcmd) hgood hphase hquiet hf)
    · rw [dataOperation_failed hb hu hr] at h
      rw [proceed, if_neg hr] at handshake
      exact Option.some.inj h ▸ handshake

/-- Settles O32: the data phase is D_WR's one transmit. -/
theorem writeRefinesPseudocode : Obligations.WriteRefinesPseudocode := by
  unfold Obligations.WriteRefinesPseudocode
  exact fun _ _ _ => dataOperation_reaches rfl dataCommand_write (fun _ => rfl) performs_writePhase

/-- Settles O33: the data phase is D_RD's one receive. -/
theorem readRefinesPseudocode : Obligations.ReadRefinesPseudocode := by
  unfold Obligations.ReadRefinesPseudocode
  exact fun _ _ _ => dataOperation_reaches rfl dataCommand_read (fun _ => rfl) performs_readPhase

/-- Settles O34: the data phase is D_CLR's loop, whatever its length. -/
theorem clearRefinesPseudocode : Obligations.ClearRefinesPseudocode := by
  unfold Obligations.ClearRefinesPseudocode
  intro polls s t hq hp ho
  have hopc : s.op.opcode hw = some hw.opcWrite := by rcases ho with ho | ho <;> rw [ho] <;> rfl
  exact dataOperation_reaches hopc (dataCommand_clear ho) (fun _ => rfl) performs_clearPhase hq hp rfl

end Sys2Proof.Machine

/-! O36 to O40: the data operations on scripted answers (43_data_operations.md R170 to R179; logs 1, 6). -/

namespace Sys2Proof.Machine

open Config (hw)

/-! ### Calls that the script answers ok -/

/-- What stands behind the port once the script has answered the calls `cs` and `rest` of it is left: a scripted ok
takes the responder off (log 6). -/
def Env.scripted (e : Env) (rest : List Reply) (cs : List Call) : Env :=
  { script := rest, chip := none, draws := e.draws, history := cs.reverse ++ e.history }

theorem Env.scripted_scripted (e : Env) (r r' : List Reply) (cs ds : List Call) :
    (e.scripted r cs).scripted r' ds = e.scripted r' (cs ++ ds) := by
  simp [Env.scripted]

namespace Env

variable (e : Env) (r : List Reply) (cs : List Call)

theorem scripted_select : (e.scripted (.ok :: r) cs).select = (true, e.scripted r (cs ++ [.sel true])) := by
  rw [← scripted_scripted]; exact select_scripted_ok rfl

theorem scripted_deselect : (e.scripted (.ok :: r) cs).deselect = (true, e.scripted r (cs ++ [.des true])) := by
  rw [← scripted_scripted]; exact deselect_scripted_ok rfl

theorem scripted_transmit (bs : List Byte) :
    (e.scripted (.ok :: r) cs).transmit bs = (true, e.scripted r (cs ++ [.tx bs true])) := by
  rw [← scripted_scripted]; exact transmit_scripted_ok rfl bs

theorem scripted_receive {bs : List Byte} {n : Nat} (hn : bs.length = n) :
    (e.scripted (.bytes bs :: r) cs).receive n = (some bs, e.scripted r (cs ++ [.rx n (some bs)])) := by
  rw [← scripted_scripted]; exact receive_scripted_bytes rfl hn

end Env

section

variable {s : State} {e f : Env} {rest : List Reply} (hq : s.quiet)
include hq

/-- A row made of a call that is answered ok. -/
theorem step_ok {p : Phase} {call : Bool × Env} {good bad : State → State}
    (hr : phaseRow (s.on p e) = some ((s.on p e).onAck call good bad)) (hc : call = (true, f)) :
    step (s.on p e) = .next (good (s.on p f)) := by
  subst hc
  exact step_ack hq hr rfl

/-- A command phase whose transmit is answered ok. -/
theorem step_command_ok {p : Phase} {bs : List Byte} {good bad : State → State}
    (hs : step (s.on p e) = transmitCommand bs good bad (s.on p e).dropRequest) (hc : e.transmit bs = (true, f)) :
    step (s.on p e) = .next (good (s.on p f)) := by
  have hc : (s.on p e).env.transmit bs = (true, f) := hc
  rw [hs, dropRequest_of_none (s := s.on p e) hq.2, transmitCommand, State.onAck, hc]
  rfl

/-! ### The handshake (41_wel_handshake.md R133) -/

/-- The clock read and the write-enable bracket. -/
theorem enable_steps_scripted {now0 : Word} (h : e.script = .time now0 :: .ok :: .ok :: .ok :: rest) :
    Steps 4 (s.on .wT0 e) ({ s with t0 := now0 }.on .pSel (e.scripted rest ([Call.now now0] ++ enableBracket))) := by
  have hn := Env.now_scripted h
  have t0 : step (s.on .wT0 e) = .next ({ s with t0 := now0 }.on .wSel e.now.2) := by
    rw [← show e.now.1 = now0 from congrArg Prod.fst hn]
    exact step_phaseRow hq rfl
  rw [hn] at t0
  have hq : { s with t0 := now0 }.quiet := hq
  refine .cons t0 (.cons (step_ok hq rfl (Env.select_scripted_ok rfl)) ?_)
  refine .cons (step_command_ok hq (step_wTx hq.1 rfl) (Env.transmit_scripted_ok rfl [0x06#8])) (.one ?_)
  exact step_ok (good := State.goto .pSel) hq rfl (Env.deselect_scripted_ok rfl)

/-- A poll that reads WEL set. -/
theorem poll_steps_scripted {b : Byte} (hb : b.getLsbD 1 = true)
    (h : e.script = .ok :: .ok :: .bytes [b] :: .ok :: rest) :
    Steps 4 (s.on .pSel e) ({ s with sr := b }.on .dSel (e.scripted rest (readCalls b true))) := by
  refine .cons (step_ok hq rfl (Env.select_scripted_ok h)) ?_
  refine .cons (step_pTx_on hq (Env.transmit_scripted_ok rfl [0x05#8])) ?_
  refine .cons (step_pRx_read hq (Env.receive_scripted_bytes rfl rfl)) (.one ?_)
  have hq : { s with sr := b }.quiet := hq
  refine (step_pDes_on hq (Env.deselect_scripted_ok rfl)).trans ?_
  rw [hb]
  rfl

theorem handshake_steps_scripted {now0 : Word} {b : Byte} (hb : b.getLsbD 1 = true)
    (h : e.script = handshakeReplies now0 b ++ rest) :
    Steps 8 (s.on .wT0 e) ({ s with t0 := now0, sr := b }.on .dSel (e.scripted rest (handshakeCalls now0 b))) := by
  have enable := enable_steps_scripted hq h
  have poll := poll_steps_scripted (s := { s with t0 := now0 })
    (e := e.scripted (.ok :: .ok :: .bytes [b] :: .ok :: rest) ([Call.now now0] ++ enableBracket)) hq hb rfl
  rw [Env.scripted_scripted] at poll
  exact enable.append poll

/-! ### The data bracket (43_data_operations.md R170 to R172) -/

theorem step_dDes_scripted (cs : List Call) :
    step (s.on .dDes (e.scripted (.ok :: rest) cs)) =
      .next { s.on .idle (e.scripted rest (cs ++ [.des true])) with result := .ok } :=
  step_ok (good := State.finishOk) hq rfl (e.scripted_deselect rest cs)

theorem step_dWr_scripted (hl : s.wdata.length = s.len.toNat) (cs : List Call) :
    step (s.on .dWr (e.scripted (.ok :: rest) cs)) =
      .next (s.on .dDes (e.scripted rest (cs ++ [.tx s.wdata true]))) := by
  have hb : (s.on .dWr (e.scripted (.ok :: rest) cs)).writeBytes = s.wdata := State.writeBytes_of_length hl
  have he : (s.on .dWr (e.scripted (.ok :: rest) cs)).writeEnv = e.scripted (.ok :: rest) cs :=
    State.writeEnv_of_length hl
  refine step_ok (good := State.goto .dDes) (bad := State.raise .spiError) hq ?_
    (e.scripted_transmit rest cs s.wdata)
  change some (rowDWr _) = _
  rw [rowDWr, hb, he]

theorem step_dRd_scripted {data : List Byte} (hl : data.length = s.len.toNat) (cs : List Call) :
    step (s.on .dRd (e.scripted (.bytes data :: rest) cs)) =
      .next ({ s with rdata := .bytes data }.on .dDes
        (e.scripted rest (cs ++ [Call.rx s.len.toNat (some data)]))) := by
  have hr := e.scripted_receive rest cs hl
  refine step_phaseRow hq (congrArg some ?_)
  simp only [State.on, rowDRd, hr]
  rfl

/-- The clear loop up to `IDX = i`, one scripted ok a byte. -/
theorem clear_steps_scripted {n : Nat} {i : Word} (hn : s.idx.toNat + n = i.toNat) (hi : i.toNat ≤ s.len.toNat)
    (h : e.script = List.replicate n .ok ++ rest) :
    ∃ f, Steps n (s.on .dClr e) ({ s with idx := i }.on .dClr f) ∧
      f = { e.scripted rest (List.replicate n (.tx [0x00#8] true)) with chip := f.chip } ∧
      (e.chip = none → f.chip = none) := by
  induction n generalizing s e with
  | zero =>
    obtain rfl : s.idx = i := BitVec.eq_of_toNat_eq hn
    have h : e.script = rest := h
    exact ⟨e, .zero _, by rw [← h]; rfl, id⟩
  | succ n ih =>
    have hne : s.idx ≠ s.len := by bv_omega
    have byte := step_ok (p := .dClr) (good := fun t => t.bumpIdx.goto .dClr) hq (congrArg some (if_neg hne))
      (Env.transmit_scripted_ok h [0x00#8])
    obtain ⟨f, loop, hf, hc⟩ := ih (s := { s with idx := s.idx + 1#32 })
      (e := e.scripted (List.replicate n .ok ++ rest) [.tx [0x00#8] true]) hq (by bv_omega) hi rfl
    rw [Env.scripted_scripted] at hf
    exact ⟨f, .cons byte loop, hf, fun _ => hc rfl⟩

/-- A byte that the script lets fail. -/
theorem step_dClr_scripted_fail (hi : s.idx ≠ s.len) (h : e.script = .fail :: rest) :
    step (s.on .dClr e) =
      .next ((s.on .dClr { e with script := rest, history := .tx [0x00#8] false :: e.history }).raise .spiError) :=
  step_onAck (s := s.on .dClr e) (good := fun t => t.bumpIdx.goto .dClr) hq (congrArg some (if_neg hi))
    (Env.transmit_scripted_fail h [0x00#8])

end

/-! ### Whole operations (43_data_operations.md R179) -/

/-- A data operation on `a` and `n` whose first poll has read `b`. -/
def State.enabled (s : State) (o : OpSel) (a n now0 : Word) (b : Byte) : State :=
  { s with op := o, addr := a, len := n, t0 := now0, sr := b }

/-- Accepted on a usable state, a data operation sends its command. -/
theorem command_steps_scripted {s : State} {o : OpSel} {opc : Byte} {good : State → State} {a n now0 : Word}
    {b : Byte} {rest : List Reply} (hcmd : DataCommand o opc good) (hq : s.quiet) (hu : s.usable = true)
    (hr : a.toNat + n.toNat ≤ s.size.toNat) (hb : b.getLsbD 1 = true)
    (h : s.env.script = handshakeReplies now0 b ++ .ok :: .ok :: rest) :
    ∃ bs, frame hw s.idr opc a = some bs ∧
      Steps 11 (s.accept o a n .dChk) (good ((s.enabled o a n now0 b).on .dCmd
        (s.env.scripted rest (handshakeCalls now0 b ++ [Call.sel true, .tx bs true])))) := by
  obtain ⟨w, haw⟩ := exists_addressWidth_of_usable hu
  have hf := frame_of_addressWidth haw opc a
  have check : step (s.accept o a n .dChk) = .next ((s.accept o a n .dChk).on .wT0 s.env) :=
    step_phaseRow hq (congrArg some (if_pos (boundsOk_iff.2 hr)))
  have handshake := handshake_steps_scripted (s := s.accept o a n .dChk) hq hb h
  have hq : (s.enabled o a n now0 b).quiet := hq
  have select := step_ok (p := .dSel) (good := State.goto .dCmd) hq rfl
    (s.env.scripted_select (.ok :: rest) (handshakeCalls now0 b))
  have command := step_command_ok hq (hcmd ((s.enabled o a n now0 b).on .dCmd _) hq.1 rfl rfl _ hf)
    (s.env.scripted_transmit rest (handshakeCalls now0 b ++ [.sel true]) _)
  exact ⟨_, hf, .cons check (handshake.append (.cons select (.one command)))⟩

/-- Settles O36: one transmit of WDATA between the command and the deselect. -/
theorem writeCompletes : Obligations.WriteCompletes := by
  unfold Obligations.WriteCompletes
  intro s a n now0 b rest hq hidle hu hr hl hb h
  obtain ⟨bs, hf, command⟩ := command_steps_scripted (rest := .ok :: .ok :: rest) dataCommand_write hq hu hr hb h
  have hq : (s.enabled .write a n now0 b).quiet := hq
  exact ⟨_, bs, State.acceptData_of_usable .write a n hidle hu, hf,
    command.append (.cons (step_dWr_scripted hq hl _) (.one (step_dDes_scripted hq _)))⟩

/-- Settles O37: one receive of LEN bytes between the command and the deselect. -/
theorem readCompletes : Obligations.ReadCompletes := by
  unfold Obligations.ReadCompletes
  intro s a n now0 b data rest hq hidle hu hr hl hb h
  obtain ⟨bs, hf, command⟩ := command_steps_scripted (rest := .bytes data :: .ok :: rest) dataCommand_read hq
    hu hr hb h
  have hq : (s.enabled .read a n now0 b).quiet := hq
  have receive := step_dRd_scripted (rest := .ok :: rest) (e := s.env) hq hl
    (handshakeCalls now0 b ++ [Call.sel true, .tx bs true])
  have hq : { s.enabled .read a n now0 b with rdata := .bytes data }.quiet := hq
  exact ⟨_, bs, State.acceptData_of_usable .read a n hidle hu, hf,
    command.append (.cons receive (.one (step_dDes_scripted hq _)))⟩

/-- CLEAR and ERASE, once accepted: one transmit a byte between the command and the deselect. -/
theorem clearing_steps_scripted {s : State} {o : OpSel} {a n now0 : Word} {b : Byte} {rest : List Reply}
    (ho : o = .clear ∨ o = .erase) (hq : s.quiet) (hu : s.usable = true) (hr : a.toNat + n.toNat ≤ s.size.toNat)
    (hb : b.getLsbD 1 = true)
    (h : s.env.script =
      handshakeReplies now0 b ++ [Reply.ok, .ok] ++ List.replicate n.toNat Reply.ok ++ [Reply.ok] ++ rest) :
    ∃ bs, frame hw s.idr hw.opcWrite a = some bs ∧
      Steps (13 + n.toNat) (s.accept o a n .dChk) { completed s o a n now0 b rest
        (handshakeCalls now0 b ++ [Call.sel true, .tx bs true] ++
          List.replicate n.toNat (Call.tx [0x00#8] true) ++ [Call.des true])
        with idx := n } := by
  obtain ⟨bs, hf, command⟩ := command_steps_scripted (rest := List.replicate n.toNat .ok ++ ([.ok] ++ rest))
    (dataCommand_clear ho) hq hu hr hb (by rw [h]; simp only [List.append_assoc]; rfl)
  let v : State := { s.enabled o a n now0 b with idx := 0#32 }
  have hq : v.quiet := hq
  obtain ⟨f, loop, hf', hc⟩ := clear_steps_scripted (s := v)
    (e := s.env.scripted (List.replicate n.toNat .ok ++ ([.ok] ++ rest))
      (handshakeCalls now0 b ++ [Call.sel true, .tx bs true])) hq (Nat.zero_add n.toNat) le_rfl rfl
  rw [hc rfl, Env.scripted_scripted] at hf'
  subst hf'
  have hq : { v with idx := n }.quiet := hq
  have leave := step_dClr_end (e := s.env.scripted (.ok :: rest) (handshakeCalls now0 b ++
    [Call.sel true, .tx bs true] ++ List.replicate n.toNat (Call.tx [0x00#8] true))) hq rfl
  have steps := command.append (loop.append (.cons leave (.one (step_dDes_scripted hq _))))
  rw [show 13 + n.toNat = 11 + (n.toNat + 2) by omega]
  exact ⟨bs, hf, steps⟩

/-- Settles O38: the loop from ADDR on, for LEN bytes. -/
theorem clearCompletes : Obligations.ClearCompletes := by
  unfold Obligations.ClearCompletes
  intro s a n now0 b rest hq hidle hu hr hb h
  obtain ⟨bs, hf, steps⟩ := clearing_steps_scripted (.inl rfl) hq hu hr hb h
  exact ⟨_, bs, State.acceptData_of_usable .clear a n hidle hu, hf, steps⟩

/-- Settles O39: the same loop, from 0 on for SIZE bytes. -/
theorem eraseCompletes : Obligations.EraseCompletes := by
  unfold Obligations.EraseCompletes
  intro s a n now0 b rest hq hidle hu hb h
  obtain ⟨bs, hf, steps⟩ := clearing_steps_scripted (a := 0#32) (.inr rfl) hq hu (Nat.zero_add _).le hb h
  exact ⟨_, bs, State.acceptData_of_usable .erase 0#32 s.size hidle hu, hf, steps⟩

/-! ### A byte that fails (43_data_operations.md R172) -/

/-- Settles O40: `k` rounds of the loop, then the abort, which writes neither IDX nor the script. -/
theorem clearFailsAtByte : Obligations.ClearFailsAtByte := by
  unfold Obligations.ClearFailsAtByte
  intro s k rest hq hp _ hi hk h
  have hlen := s.len.isLt
  have hk' : (BitVec.ofNat 32 k).toNat = k := by rw [BitVec.toNat_ofNat, Nat.mod_eq_of_lt (by omega)]
  rw [List.append_assoc] at h
  obtain ⟨f, loop, hf, -⟩ := clear_steps_scripted (i := BitVec.ofNat 32 k) hq
    (by rw [hi, hk']; exact Nat.zero_add k) (by omega) h
  rw [State.on_of_seq hp] at loop
  have hscript : f.script = .fail :: rest := by rw [hf]; rfl
  have hhistory : f.history = (List.replicate k (Call.tx [0x00#8] true)).reverse ++ s.env.history := by rw [hf]; rfl
  have hne : BitVec.ofNat 32 k ≠ s.len := fun he => by rw [he] at hk'; omega
  have abort := step_dClr_scripted_fail (s := { s with idx := BitVec.ofNat 32 k }) hq hne hscript
  refine ⟨_, loop.append (.one abort), rfl, rfl, ?_, by rw [State.raise_env]; rfl, ?_⟩
  · rw [State.raise_idx]
    exact hk'
  · rw [Called, State.raise_env, List.reverse_append, List.append_assoc, ← hhistory]
    rfl

end Sys2Proof.Machine

/-! O31, O35, O51: INIT (44_init.md R200 to R203). -/

namespace Sys2Proof.Machine

open Config (hw)

/-! ### The decision of I_DEC (44_init.md R200, R203) -/

section

variable {s : State}

theorem rowIDec_of_unknown (hf : findDensity hw (density hw s.idr) = none) :
    rowIDec s = s.raise .unknownDensity := by rw [rowIDec, hf]

theorem rowIDec_of_foreign {cap : Word} (hf : findDensity hw (density hw s.idr) = some cap)
    (hm : manufacturerOk hw s.idr = false) : rowIDec s = s.raise .manufacturerIdError := by
  rw [rowIDec, hf]
  exact if_neg (by rw [hm]; nofun)

theorem rowIDec_of_accepted {cap : Word} (hf : findDensity hw (density hw s.idr) = some cap)
    (hm : manufacturerOk hw s.idr = true) : rowIDec s = (s.setSize cap).finishOk := by
  rw [rowIDec, hf]
  exact if_pos hm

/-- Both conditions of `Usable` are tested before the Ok end (44_init.md R201, 10_state.md R29). -/
theorem usable_of_rowIDec_ok (h : (rowIDec s).result = .ok) : (rowIDec s).usable = true := by
  cases hf : findDensity hw (density hw s.idr) with
  | none => rw [rowIDec_of_unknown hf] at h; cases h
  | some cap =>
    cases hm : manufacturerOk hw s.idr with
    | false => rw [rowIDec_of_foreign hf hm] at h; cases h
    | true =>
      rw [rowIDec_of_accepted hf hm]
      exact (State.usable_iff _).2 ⟨hf, hm⟩

/-- Where no READ is running, I_DEC writes RESULT and SIZE and ends the operation. -/
theorem rowIDec_eq (ho : s.op ≠ .read) :
    rowIDec s = { s with seq := .idle, size := (rowIDec s).size, result := (rowIDec s).result } := by
  have abort (r : Result) : s.raise r = { s with seq := .idle, result := r } := by
    rw [State.raise_eq, if_neg ho, if_neg ho]; rfl
  cases hf : findDensity hw (density hw s.idr) with
  | none => rw [rowIDec_of_unknown hf, abort]
  | some cap =>
    cases hm : manufacturerOk hw s.idr with
    | false => rw [rowIDec_of_foreign hf hm, abort]
    | true => rw [rowIDec_of_accepted hf hm]; rfl

theorem step_iDec (hr : s.resetLine = false) (hp : s.seq = .iDec) : step s = .next (rowIDec s.dropRequest) :=
  step_row hr (by simp [hp]) (by simp [phaseRow, hp])

end

/-! ### What makes a state usable (44_init.md R201, 10_state.md R29) -/

/-- `Usable` reads IDR, which I_RX writes, and SIZE, which I_DEC writes (10_state.md R20, R26). -/
theorem seq_of_usable_ne {s t : State} (hr : s.resetLine = false) (hs : step s = .next t)
    (h : t.usable ≠ s.usable) : s.seq = .iRx ∨ s.seq = .iDec := by
  obtain ⟨idr_writer, -⟩ := registerWriters s t hr hs
  obtain ⟨size_writer, -⟩ := sizeWrittenOnlyByInit s t hr hs
  by_cases hi : t.idr = s.idr
  · exact .inr (size_writer fun hz => h (State.usable_congr hi hz)).1
  · exact .inl (idr_writer hi)

/-- Settles O51: I_DEC's Ok end tests what `Usable` says, and only phases of INIT write the registers it reads. -/
theorem usableComesFromInit : Obligations.UsableComesFromInit := by
  unfold Obligations.UsableComesFromInit
  intro s t hr hs
  refine ⟨fun hp hok => ?_, fun hn => ?_, fun ht hu => seq_of_usable_ne hr hs (by simp [ht, hu])⟩
  · cases (step_iDec hr hp).symm.trans hs
    exact usable_of_rowIDec_ok hok
  · by_contra hne
    rcases seq_of_usable_ne hr hs hne with hp | hp <;> simp [hp, Phase.isInit] at hn

/-! ### The sequencer performs the pseudocode of INIT (44_init.md R200, 40_density_and_id.md R116) -/

/-- Where a chain leads is where its second part leads, once its first part has answered Ok. -/
theorem proceed_andThen (last : State → State) (p : Result × State) (k : State → Result × State) :
    proceed last (andThen p k) = proceed (fun u => proceed last (k u)) p := by
  by_cases hp : p.1 = .ok
  · rw [andThen_ok hp, proceed, proceed, if_pos hp]; rfl
  · rw [andThen_fail hp, proceed, proceed, if_neg hp, if_neg hp]

/-- A phase that makes one part of a chain, and the run that follows where it answers Ok. -/
theorem reaches_proceed {s : State} {r : Result × State} {p q : Phase} {last : State → State} (hq : s.quiet)
    (h : step (s.goto p) = .next (proceed (State.goto q) r))
    (hk : ∀ u : State, u.quiet → Reaches (u.goto q) (last u)) : Reaches (s.goto p) (proceed last r) := by
  have hq' := step_quiet (s := s.goto p) hq h
  refine .cons h ?_
  by_cases hr : r.1 = .ok
  · rw [proceed, if_pos hr] at hq' ⊢
    rw [proceed, if_pos hr]
    exact hk r.2 hq'
  · rw [proceed, proceed, if_neg hr, if_neg hr]
    exact .refl _

section

variable {s : State} (hq : s.quiet)
include hq

theorem step_iSel_goto : step (s.goto .iSel) = .next (proceed (State.goto .iTx) (callCs Env.select s)) :=
  step_phaseRow hq (congrArg some (onAck_goto s .iSel nofun fun _ => rfl))

theorem step_iTx_goto : step (s.goto .iTx) = .next (proceed (State.goto .iRx) (callTx (frameBytes .wRdid) s)) :=
  step_command_goto hq (step_iTx hq.1 rfl) fun _ => rfl

theorem step_iRx_goto :
    step (s.goto .iRx) = .next (proceed (State.goto .iDes) (callRx hw.idLen State.setIdr State.anyIdr s)) := by
  refine step_phaseRow hq (congrArg some ?_)
  rw [rowIRx, callRx, State.goto_env]
  cases (s.env.receive hw.idLen).1 with
  | none => exact State.goto_raise (s.setEnv _).anyIdr .iRx .spiError
  | some bs => rfl

theorem step_iDes_goto : step (s.goto .iDes) = .next (proceed (State.goto .iDec) (callCs Env.deselect s)) :=
  step_phaseRow hq (congrArg some (onAck_goto s .iDes nofun fun _ => rfl))

/-- I_DEC reads no phase. -/
theorem step_iDec_goto : step (s.goto .iDec) = .next (rowIDec s) := by
  refine step_phaseRow hq (congrArg some ?_)
  rw [rowIDec, rowIDec, State.goto_idr, State.goto_raise, State.goto_raise]
  rfl

end

/-- INIT is GET_ID and then the decision of I_DEC. -/
theorem initOperation_eq (s : State) : initOperation s = proceed rowIDec (getId s) := rfl

/-- From I_SEL the sequencer makes the four calls of GET_ID, a phase each, and decides. -/
theorem initOperation_reaches {s : State} (hq : s.quiet) : Reaches (s.goto .iSel) (initOperation s) := by
  rw [initOperation_eq, getId, proceed_andThen, proceed_andThen, proceed_andThen]
  exact reaches_proceed hq (step_iSel_goto hq) fun _ hq =>
    reaches_proceed hq (step_iTx_goto hq) fun _ hq =>
    reaches_proceed hq (step_iRx_goto hq) fun _ hq =>
    reaches_proceed hq (step_iDes_goto hq) fun _ hq => .cons (step_iDec_goto hq) (.refl _)

/-- Settles O31: a state in I_SEL is its own move to I_SEL. -/
theorem initRefinesPseudocode : Obligations.InitRefinesPseudocode := by
  unfold Obligations.InitRefinesPseudocode
  intro s hq hp
  have run := initOperation_reaches hq
  rw [show s.goto .iSel = s from State.on_of_seq hp s.env] at run
  exact run

/-! ### INIT on scripted answers (44_init.md R203; logs 1, 6) -/

/-- INIT in I_DEC: its latches set, the identification received by four calls answered ok, `rest` of the script left. -/
def State.identified (s : State) (a n : Word) (b0 b1 b2 b3 : Byte) (rest : List Reply) : State :=
  { s with
    op := .init, addr := a, len := n, idr := ⟨b0, b1, b2, b3⟩, seq := .iDec,
    env := s.env.scripted rest [.sel true, .tx [0x9F#8] true, .rx 4 (some [b0, b1, b2, b3]), .des true] }

theorem step_iRx_read {s : State} {e f : Env} {bs : List Byte} (hq : s.quiet) (h : e.receive 4 = (some bs, f)) :
    step (s.on .iRx e) = .next ({ s with idr := IdReg.ofBytes bs }.on .iDes f) := by
  have h : (s.setEnv e).env.receive hw.idLen = (some bs, f) := h
  refine (step_iRx_goto (s := s.setEnv e) hq).trans ?_
  rw [callRx, h]
  rfl

/-- Accepted, INIT makes its four calls and comes to decide. -/
theorem identify_steps_scripted {s : State} {a n : Word} {b0 b1 b2 b3 : Byte} {rest : List Reply} (hq : s.quiet)
    (h : s.env.script = .ok :: .ok :: .bytes [b0, b1, b2, b3] :: .ok :: rest) :
    Steps 4 (s.accept .init a n .iSel) (s.identified a n b0 b1 b2 b3 rest) := by
  have hq : (s.accept .init a n .iSel).quiet := hq
  refine .cons (step_ok hq rfl (Env.select_scripted_ok h)) ?_
  refine .cons (step_command_ok hq (step_iTx hq.1 rfl) (Env.transmit_scripted_ok rfl [0x9F#8])) ?_
  refine .cons (step_iRx_read hq (Env.receive_scripted_bytes rfl rfl)) (.one ?_)
  have hq : { s.accept .init a n .iSel with idr := ⟨b0, b1, b2, b3⟩ }.quiet := hq
  exact step_ok (good := State.goto .iDec) hq rfl (Env.deselect_scripted_ok rfl)

/-- Settles O35: the calls lead to I_DEC, and the bytes received decide there. -/
theorem initCompletes : Obligations.InitCompletes := by
  unfold Obligations.InitCompletes
  intro s a n b0 b1 b2 b3 rest hq hi h
  let u := s.identified a n b0 b1 b2 b3 rest
  have decision : step u = .next (rowIDec u) := step_phaseRow hq rfl
  refine ⟨_, _, if_pos hi, (identify_steps_scripted hq h).append (.one decision), ?_, fun hf => ?_,
    fun cap hf => ⟨fun hb => ?_, fun hb => ?_⟩⟩
  · refine (rowIDec_eq (s := u) nofun).trans ?_
    rw [hi]
    rfl
  · rw [rowIDec_of_unknown (s := u) hf]
    exact ⟨rfl, State.raise_size ..⟩
  · rw [rowIDec_of_foreign (s := u) hf (decide_eq_false hb)]
    exact ⟨rfl, State.raise_size ..⟩
  · rw [rowIDec_of_accepted (s := u) hf (decide_eq_true hb)]
    exact ⟨rfl, rfl, (State.usable_iff _).2 ⟨hf, decide_eq_true hb⟩⟩

end Sys2Proof.Machine

/-! O22: the failed calls of GET_WEL (41_wel_handshake.md R131, 60_exceptions.md R211). -/

namespace Sys2Proof.Machine

open Config (hw)

/-! ### The edge of a failed poll (10_state.md R30) -/

/-- The call was answered with a failure (20_memory.md R52); a clock read cannot fail. -/
def Call.failed : Call → Bool
  | .sel ok | .des ok | .tx _ ok => !ok
  | .rx _ answer => answer.isNone
  | .now _ => false

/-- The step goes to the clock check, or its call succeeded. -/
def GoesToClockOrSucceeds (s t : State) : Prop :=
  t.seq = .pTime ∨ ∃ c, t.env.history = c :: s.env.history ∧ c.failed = false

/-- The WEL test is no call. -/
theorem welEdge_env (u : State) : (welEdge hw u).env = u.env := by
  unfold welEdge
  split <;> rfl

namespace GoesToClockOrSucceeds

variable {s t : State}

/-- A poll row made of an ok-or-fail call, which is logged as `logged` with its answer. -/
theorem of_onAck {call : Bool × Env} {good : State → State} (logged : Bool → Call)
    (hh : call.2.history = logged call.1 :: s.env.history) (hok : (logged true).failed = false)
    (hg : ∀ u : State, (good u).env = u.env) :
    GoesToClockOrSucceeds s (s.onAck call good (State.goto .pTime)) := by
  rcases onAck_cases s call good (State.goto .pTime) with ⟨hk, ht⟩ | ⟨-, ht⟩
  · refine .inr ⟨logged true, ?_, hok⟩
    rw [ht, hg, ← hk]
    exact hh
  · exact .inl (by rw [ht]; rfl)

theorem of_rowPRx (s : State) : GoesToClockOrSucceeds s (rowPRx s) := by
  have hh := s.env.receive_history hw.srLen
  unfold rowPRx
  split
  · next bs hk => exact .inr ⟨_, hh, by rw [hk]; rfl⟩
  · exact .inl rfl

/-- Every step of a poll phase. -/
theorem of_step (hr : s.resetLine = false) (hp : s.seq.isPoll = true) (hs : step s = .next t) :
    GoesToClockOrSucceeds s t := by
  have hb : s.seq ≠ .idle := fun h => by rw [h] at hp; cases hp
  have row {u : State} (hu : phaseRow s.dropRequest = some u) : t = u :=
    Host.Outcome.next.inj (hs.symm.trans (step_row hr hb hu))
  cases hq : s.seq with
  | pSel =>
    rw [row (u := rowPSel s.dropRequest) (by simp [phaseRow, hq])]
    exact of_onAck (s := s.dropRequest) Call.sel s.env.select_history rfl fun _ => rfl
  | pTx =>
    rw [Host.Outcome.next.inj (hs.symm.trans (step_pTx hr hq))]
    exact of_onAck (s := s.dropRequest) (Call.tx [0x05#8]) (s.env.transmit_history _) rfl fun _ => rfl
  | pRx =>
    rw [row (u := rowPRx s.dropRequest) (by simp [phaseRow, hq])]
    exact of_rowPRx s.dropRequest
  | pDes =>
    rw [row (u := rowPDes s.dropRequest) (by simp [phaseRow, hq])]
    exact of_onAck (s := s.dropRequest) Call.des s.env.deselect_history rfl welEdge_env
  | _ => rw [hq] at hp; cases hp

end GoesToClockOrSucceeds

theorem idle_not_mem_edges_of_isPoll {p : Phase} (h : p.isPoll = true) : .idle ∉ edges p := by
  revert h
  cases p <;> decide

/-- Settles O22: the failure edges of GET_WEL's four phases, none of which leads to IDLE. -/
theorem pollFailuresAreSwallowed : Obligations.PollFailuresAreSwallowed := by
  unfold Obligations.PollFailuresAreSwallowed
  intro s t hr hp hs
  obtain ⟨-, sr_writer, -, -, -, result_writer, -⟩ := registerWriters s t hr hs
  have hbusy : t.seq ≠ .idle := fun hi => idle_not_mem_edges_of_isPoll hp (hi ▸ phaseEdges s t hr hs)
  refine ⟨hbusy, by_contra fun hne => hbusy (result_writer hne).2, fun c hh hc => ⟨?_, fun hn =>
    by_contra fun hne => hn (sr_writer hne)⟩⟩
  have hfailed : c.failed = true := by
    rcases hc with rfl | rfl | ⟨bs, rfl⟩ | ⟨n, rfl⟩ <;> rfl
  rcases GoesToClockOrSucceeds.of_step hr hp hs with hseq | ⟨d, hd, hok⟩
  · exact hseq
  · obtain rfl : c = d := (List.cons.inj (hh.symm.trans hd)).1
    rw [hfailed] at hok
    cases hok

end Sys2Proof.Machine

/-! O52, O53: how an operation ends (10_state.md R30, 60_exceptions.md R210, R214). -/

namespace Sys2Proof.Machine

open Config (hw)

/-! ### The cause of an error (60_exceptions.md R210) -/

/-- What goes wrong in the phase of `s` where its operation ends with an error, `e` being what stands behind the port
after the phase's call, if it makes one. -/
inductive Cause (s : State) (e : Env) : Result → Prop where
  | select (hp : s.seq ∈ [.iSel, .wSel, .dSel]) (hh : e.history = .sel false :: s.env.history) :
    Cause s e .csError
  | deselect (hp : s.seq ∈ [.iDes, .wDes, .dDes]) (hh : e.history = .des false :: s.env.history) :
    Cause s e .csError
  | transmit (bs : List Byte) (hp : s.seq ∈ [.iTx, .wTx, .dCmd, .dWr, .dClr])
      (hh : e.history = .tx bs false :: s.env.history) : Cause s e .spiError
  | receive (n : Nat) (hp : s.seq ∈ [.iRx, .dRd]) (hh : e.history = .rx n none :: s.env.history) :
    Cause s e .spiError
  | unknownDensity (hp : s.seq = .iDec) (hf : findDensity hw (density hw s.idr) = none)
      (hh : e.history = s.env.history) : Cause s e .unknownDensity
  | manufacturer (hp : s.seq = .iDec) (hf : findDensity hw (density hw s.idr) ≠ none)
      (hm : manufacturerOk hw s.idr = false) (hh : e.history = s.env.history) : Cause s e .manufacturerIdError
  | timeout (now : Word) (hp : s.seq = .pTime) (ht : 1000 < (now - s.t0).toNat)
      (hh : e.history = .now now :: s.env.history) : Cause s e .timeoutError
  | range (hp : s.seq = .dChk) (ho : s.size.toNat < s.addr.toNat + s.len.toNat) (hh : e.history = s.env.history) :
    Cause s e .addressError

/-- The ways a busy step ends its operation: Ok, or the abort with its cause, before which nothing is stored in the
array and IDR is written only where GET_ID's receive failed (40_density_and_id.md R116 (b)). -/
inductive Ending (s : State) : State → Prop where
  | identified (cap : Word) (hp : s.seq = .iDec) : Ending s (s.setSize cap).finishOk
  | complete (e : Env) (hp : s.seq = .dDes) (hh : e.history = .des true :: s.env.history) :
    Ending s (s.setEnv e).finishOk
  | abort (i : IdReg) (e : Env) {r : Result} (hi : s.seq ≠ .iRx → i = s.idr) (hc : Cause s e r)
    (ha : s.env.KeepsArray e) : Ending s ({ s with idr := i, env := e }.raise r)

theorem Ending.of_cause {s : State} {e : Env} {r : Result} (hc : Cause s e r) (ha : s.env.KeepsArray e) :
    Ending s ((s.setEnv e).raise r) := .abort s.idr e (fun _ => rfl) hc ha

/-! ### The rows of the phase table (10_state.md R30) -/

/-- Where the row of `s` that leads to `t` ends the operation, it ends it in one of the ways listed. -/
def EndsDuly (s t : State) : Prop := t.seq = .idle → Ending s t

namespace EndsDuly

variable {s t : State}

theorem goto (u : State) {q : Phase} (hq : q ≠ .idle) : EndsDuly s (u.goto q) := fun h => absurd h hq

theorem onAck {call : Bool × Env} {good bad : State → State}
    (hg : call.1 = true → EndsDuly s (good (s.setEnv call.2)))
    (hb : call.1 = false → EndsDuly s (bad (s.setEnv call.2))) : EndsDuly s (s.onAck call good bad) := by
  rcases onAck_cases s call good bad with ⟨hk, ht⟩ | ⟨hk, ht⟩
  · rw [ht]; exact hg hk
  · rw [ht]; exact hb hk

/-- A failed select of a bracket that is not a poll. -/
theorem select_failed (hp : s.seq ∈ [.iSel, .wSel, .dSel]) (hk : s.env.select.1 = false) :
    EndsDuly s ((s.setEnv s.env.select.2).raise .csError) := fun _ =>
  .of_cause (.select hp (by rw [Env.select_history, hk])) s.env.select_keepsArray

theorem deselect_failed (hp : s.seq ∈ [.iDes, .wDes, .dDes]) (hk : s.env.deselect.1 = false) :
    EndsDuly s ((s.setEnv s.env.deselect.2).raise .csError) := fun _ =>
  .of_cause (.deselect hp (by rw [Env.deselect_history, hk])) s.env.deselect_keepsArray

/-- The rows whose one transmit leads on, or into the abort; `f` is what stands behind the port when it is made, with
free bytes drawn before it where the host presented too few (log 10). -/
theorem of_transmit {f : Env} {bs : List Byte} {good : State → State}
    (hp : s.seq ∈ [.iTx, .wTx, .dCmd, .dWr, .dClr])
    (hh : f.history = s.env.history) (hc : f.chip = s.env.chip) (hg : ∀ u : State, (good u).seq ≠ .idle) :
    EndsDuly s (s.onAck (f.transmit bs) good (State.raise .spiError)) :=
  onAck (fun _ h => absurd h (hg _)) fun hk _ =>
    .of_cause (.transmit bs hp (by rw [Env.transmit_history, hk, hh]))
      ((Env.KeepsArray.of_eq hc).trans (f.transmit_fail_keepsArray hk))

/-- IDR is spoilt before the abort. -/
theorem of_rowIRx (hp : s.seq = .iRx) : EndsDuly s (rowIRx s) := by
  unfold rowIRx
  split
  · exact goto _ nofun
  · next hk =>
    have hh : (s.env.receive hw.idLen).2.history = .rx hw.idLen none :: s.env.history := by
      rw [Env.receive_history, hk]
    exact fun _ => .abort _ ((s.env.receive hw.idLen).2.skip 4) (absurd hp) (.receive _ (by simp [hp]) hh)
      (s.env.receive_keepsArray _)

theorem of_rowIDec (hp : s.seq = .iDec) : EndsDuly s (rowIDec s) := by
  intro _
  cases hf : findDensity hw (density hw s.idr) with
  | none =>
    rw [rowIDec_of_unknown hf]
    exact .of_cause (e := s.env) (.unknownDensity hp hf rfl) (.refl _)
  | some cap =>
    cases hm : manufacturerOk hw s.idr with
    | false =>
      rw [rowIDec_of_foreign hf hm]
      exact .of_cause (e := s.env) (.manufacturer hp (by simp [hf]) hm rfl) (.refl _)
    | true =>
      rw [rowIDec_of_accepted hf hm]
      exact .identified cap hp

theorem of_rowDChk (hp : s.seq = .dChk) : EndsDuly s (rowDChk s) := by
  unfold rowDChk
  split
  · exact goto _ nofun
  · next hb =>
    rw [boundsOk_iff, Nat.not_le] at hb
    exact fun _ => .of_cause (e := s.env) (.range hp hb rfl) (.refl _)

theorem of_rowPRx (s : State) : EndsDuly s (rowPRx s) := by
  unfold rowPRx
  split
  · exact goto _ nofun
  · exact goto _ nofun

theorem of_rowPDes (s : State) : EndsDuly s (rowPDes s) := by
  refine onAck (fun _ => ?_) fun _ => goto _ nofun
  unfold welEdge
  split
  · exact goto _ nofun
  · exact goto _ nofun

theorem of_rowPTime (hp : s.seq = .pTime) : EndsDuly s (rowPTime s) := by
  unfold rowPTime
  split
  · next ht =>
    exact fun _ => .of_cause (.timeout _ hp (timedOut_iff.1 ht) s.env.now_history) s.env.now_keepsArray
  · exact goto _ nofun

theorem of_rowDRd (hp : s.seq = .dRd) : EndsDuly s (rowDRd s) := by
  unfold rowDRd
  split
  · exact goto _ nofun
  · next hk =>
    exact fun _ => .of_cause (.receive _ (by simp [hp]) (by rw [Env.receive_history, hk])) (s.env.receive_keepsArray _)

theorem of_rowDClr (hp : s.seq = .dClr) : EndsDuly s (rowDClr s) := by
  unfold rowDClr
  split
  · exact goto _ nofun
  · exact of_transmit (by simp [hp]) rfl rfl fun _ => nofun

theorem of_rowDDes (hp : s.seq = .dDes) : EndsDuly s (rowDDes s) :=
  onAck (fun hk _ => .complete _ hp (by rw [Env.deselect_history, hk])) (deselect_failed (by simp [hp]))

/-- The rows of the phases that transmit no command frame. -/
theorem of_phaseRow (h : phaseRow s = some t) : EndsDuly s t := by
  cases hp : s.seq <;> simp only [phaseRow, hp, Option.some.injEq, reduceCtorEq] at h <;> subst h
  case iSel | wSel | dSel => exact onAck (fun _ => goto _ nofun) (select_failed (by simp [hp]))
  case iDes | wDes => exact onAck (fun _ => goto _ nofun) (deselect_failed (by simp [hp]))
  case wT0 => exact goto _ nofun
  case pSel => exact onAck (fun _ => goto _ nofun) fun _ => goto _ nofun
  case dWr => exact of_transmit (by simp [hp]) rfl rfl fun _ => nofun
  case iRx => exact of_rowIRx hp
  case iDec => exact of_rowIDec hp
  case dChk => exact of_rowDChk hp
  case pRx => exact of_rowPRx s
  case pDes => exact of_rowPDes s
  case pTime => exact of_rowPTime hp
  case dRd => exact of_rowDRd hp
  case dClr => exact of_rowDClr hp
  case dDes => exact of_rowDDes hp

/-- Every step of a running operation. -/
theorem of_step (hr : s.resetLine = false) (hb : s.seq ≠ .idle) (hs : step s = .next t) :
    EndsDuly s.dropRequest t := by
  cases step_cases hr hs with
  | wait hi | acceptInit _ _ _ hi | acceptData _ _ _ _ hi => exact absurd hi hb
  | row _ hrow => exact of_phaseRow hrow
  | readId hp ht | writeEnable hp ht | writeCommand _ hp _ _ ht | clearCommand _ hp _ _ ht
  | readCommand _ hp _ _ ht =>
    rw [ht]
    exact of_transmit (by simp [hp]) rfl rfl fun _ => nofun
  | readStatus hp ht =>
    rw [ht]
    exact onAck (fun _ => goto _ nofun) fun _ => goto _ nofun

end EndsDuly

/-! ### What an ending says -/

namespace Ending

variable {s t : State}

/-- An operation ends Ok in two phases, and otherwise with a cause; the draws of an abort are no call. -/
theorem ok_or_cause (h : Ending s t) :
    (t.result = .ok ∧ (s.seq = .iDec ∨ s.seq = .dDes)) ∨
      ∃ e, t.env.history = e.history ∧ Cause s e t.result := by
  cases h with
  | identified cap hp => exact .inl ⟨rfl, .inl hp⟩
  | complete e hp => exact .inl ⟨rfl, .inr hp⟩
  | abort i e _ hc => exact .inr ⟨e, by rw [State.raise_env]; rfl, hc⟩

/-- An ending that is not Ok is the abort. -/
theorem eq_raise (h : Ending s t) (hn : t.result ≠ .ok) :
    ∃ i e, (s.seq ≠ .iRx → i = s.idr) ∧ s.env.KeepsArray e ∧ t = { s with idr := i, env := e }.raise t.result := by
  cases h with
  | identified | complete => exact absurd rfl hn
  | abort i e hi _ ha => exact ⟨i, e, hi, ha, rfl⟩

end Ending

/-- Settles O52: the ending's cause; the invariant tells the operation, and that ERASE's range is never rejected. -/
theorem errorCauses : Obligations.ErrorCauses := by
  unfold Obligations.ErrorCauses
  intro s t hinv hr hb hs ht
  have among {l m : List Phase} (hp : s.seq ∈ l) (h : l ⊆ m) : s.seq ∈ m := h hp
  rcases (EndsDuly.of_step hr hb hs ht).ok_or_cause with ⟨hok, hp⟩ | ⟨e, hh, hc⟩
  · rw [hok]
    exact hp
  rw [hh]
  generalize t.result = r at hc
  cases hc with
  | select hp hh => exact ⟨among hp (by decide), .inl hh⟩
  | deselect hp hh => exact ⟨among hp (by decide), .inr hh⟩
  | transmit bs hp hh => exact ⟨among hp (by decide), .inl ⟨bs, hh⟩⟩
  | receive n hp hh => exact ⟨among hp (by decide), .inr ⟨n, hh⟩⟩
  | unknownDensity hp hf => exact ⟨hp, hinv.init (hp ▸ rfl), hf⟩
  | manufacturer hp hf hm => exact ⟨hp, hinv.init (hp ▸ rfl), hf, of_decide_eq_false hm⟩
  | timeout now hp hlate hh => exact ⟨hp, (hinv.data (hp ▸ rfl)).1, now, hh, hlate⟩
  | range hp hout =>
    have hd : s.seq.isData = true := hp ▸ rfl
    obtain ⟨ho, -⟩ := hinv.data hd
    have hout : s.size.toNat < s.addr.toNat + s.len.toNat := hout
    refine ⟨hp, ?_, hout⟩
    cases hop : s.op with
    | read | write | clear => simp
    | unset | init => rw [hop] at ho; cases ho
    | erase =>
      obtain ⟨ha, hl⟩ := hinv.erase hd hop
      simp [ha, hl] at hout

/-- Settles O53: the abort is one record update, of which RDATA's part depends on the operation. -/
theorem abortRestoresNothing : Obligations.AbortRestoresNothing := by
  unfold Obligations.AbortRestoresNothing
  intro s t hr hb hs ht hn
  obtain ⟨i, e, hi, hkeep, h⟩ := (EndsDuly.of_step hr hb hs ht).eq_raise hn
  have hidr : t.idr = i := by rw [h, State.raise_idr]
  have hrdata : t.rdata = if s.op = .read then .any e.draws s.len.toNat else s.rdata := by
    rw [h, State.raise_rdata]; rfl
  have harray : s.env.KeepsArray t.env := by rw [h, State.raise_env]; exact hkeep
  refine ⟨?_, .of_keepsArray harray, fun hp => hidr.trans (hi hp), fun ho => by rw [hrdata, if_neg ho],
    fun ho => ⟨e.draws, by rw [hrdata, if_pos ho]⟩⟩
  have heq := State.raise_eq { s.dropRequest with idr := i, env := e } t.result
  rw [← h] at heq
  rw [heq]
  rfl

end Sys2Proof.Machine

/-! O9: what a wire command does to the attached responder (20_memory.md R57, 70_reset_and_hazards.md R247). -/

namespace Sys2Proof.Machine

open Config (hw)

/-- A row made of an ok-or-fail call leaves the responder as that call left it, when neither edge reaches it. -/
theorem onAck_chip {s : State} {call : Bool × Env} {good bad : State → State}
    (hg : ∀ u : State, (good u).env.chip = u.env.chip) (hb : ∀ u : State, (bad u).env.chip = u.env.chip) :
    (s.onAck call good bad).env.chip = call.2.chip := by
  rcases onAck_cases s call good bad with ⟨-, h⟩ | ⟨-, h⟩
  · rw [h, hg]; rfl
  · rw [h, hb]; rfl

/-- An abort draws at most free bytes (60_exceptions.md R214). -/
theorem raise_chip (u : State) (r : Result) : (u.raise r).env.chip = u.env.chip := by rw [State.raise_env]; rfl

/-- A wire command that answers next leaves the responder as the one transmit of its frame does (30_encoding.md R86,
R87, R96 to R98). -/
theorem exec_wire_chip {i : Instr} {s t : State} (hi : i.space = .wire) (h : exec i s = .next t) :
    t.env.chip = (s.env.transmit (frameBytes i)).2.chip := by
  have moveOrAbort {bs : List Byte} {q : Phase}
      (ht : t = s.onAck (s.env.transmit bs) (State.goto q) (State.raise .spiError)) :
      t.env.chip = (s.env.transmit bs).2.chip := by
    rw [ht]; exact onAck_chip (fun _ => rfl) (raise_chip · _)
  have write {bs : List Byte} (h : transmitWrite bs s = .next t) : t.env.chip = (s.env.transmit bs).2.chip := by
    rcases transmitWrite_cases h with ⟨-, ht⟩ | ⟨-, ht⟩
    · exact moveOrAbort ht
    · rw [ht]; exact onAck_chip (fun _ => rfl) (raise_chip · _)
  have read {bs : List Byte} (h : transmitRead bs s = .next t) : t.env.chip = (s.env.transmit bs).2.chip :=
    moveOrAbort (transmitRead_cases h).2
  cases i with
  | wRdsr => rw [← Host.Outcome.next.inj h]; exact onAck_chip (fun _ => rfl) fun _ => rfl
  | wWren | wRdid => exact moveOrAbort (Host.Outcome.next.inj h).symm
  | wWriteW3 | wWriteW4 => exact write h
  | wReadW3 | wReadW4 => exact read h
  | wWrsr => cases h
  | _ => cases hi

/-- Settles O9: the command is one transmit of its frame, which stores nothing outside an open write bracket. -/
theorem wireCommandMemoryFrame : Obligations.WireCommandMemoryFrame := by
  unfold Obligations.WireCommandMemoryFrame
  intro i s t hi hs a b hb
  have oneByte : ∀ j ∈ [Instr.wRdsr, .wWren, .wRdid], j.space = .wire := by decide
  have hwire : i.space = .wire := by
    rcases hi with hi | ⟨a, rfl | rfl⟩ | ⟨a, rfl | rfl⟩
    · exact oneByte i hi
    all_goals rfl
  have hst : s.env.StoresAtMost (frameBytes i) t.env := fun d hd =>
    s.env.transmit_storesAtMost (frameBytes i) d (exec_wire_chip hwire hs ▸ hd)
  exact hst.memRead hb

end Sys2Proof.Machine

/-! O54: the chip-select line when an operation has ended (70_reset_and_hazards.md R247, 60_exceptions.md R214). -/

namespace Sys2Proof.Machine

/-- What the result of an ended operation tells of the chip-select line. -/
def Result.LeavesLine (r : Result) (line : Option Bool) : Prop :=
  (r = .spiError → line = some true) ∧
  (r = .ok ∨ r = .unknownDensity ∨ r = .manufacturerIdError → line = some false) ∧
  (r = .csError → line = none)

/-- A failed select or deselect leaves the line unknown; a failed transmit or receive falls inside a bracket, and
I_DEC comes after GET_ID's deselect (10_state.md R39). -/
theorem Cause.leavesLine {s : State} {e : Env} {r : Result} (hinv : s.Inv) (hc : Cause s e r) :
    r.LeavesLine (lineAfter e.history) := by
  have bracket {l : List Phase} (hp : s.seq ∈ l) (hl : ∀ p ∈ l, p.inBracket = true) : s.line = some true :=
    hinv.line (hl _ hp)
  cases hc with
  | select _ hh | deselect _ hh => rw [hh]; exact ⟨nofun, by simp, fun _ => rfl⟩
  | transmit bs hp hh => rw [hh]; exact ⟨fun _ => bracket hp (by decide), by simp, nofun⟩
  | receive n hp hh => rw [hh]; exact ⟨fun _ => bracket hp (by decide), by simp, nofun⟩
  | unknownDensity hp _ hh => rw [hh]; exact ⟨nofun, fun _ => hinv.released hp, nofun⟩
  | manufacturer hp _ _ hh => rw [hh]; exact ⟨nofun, fun _ => hinv.released hp, nofun⟩
  | timeout | range => exact ⟨nofun, by simp, nofun⟩

/-- An operation that ends Ok had its last deselect answered ok, INIT before I_DEC and a data operation in D_DES. -/
theorem Ending.leavesLine {s t : State} (hinv : s.Inv) (h : Ending s t) : t.result.LeavesLine t.line := by
  cases h with
  | identified cap hp => exact ⟨nofun, fun _ => hinv.released hp, nofun⟩
  | complete e _ hh => exact ⟨nofun, fun _ => by simp [State.line, hh, lineAfter], nofun⟩
  | @abort i e r _ hc =>
    have hl : r.LeavesLine (lineAfter e.history) := hc.leavesLine hinv
    rw [State.line, State.raise_env]
    exact hl

/-- Settles O54: the line after each way a busy step ends its operation. -/
theorem chipSelectAfterAbort : Obligations.ChipSelectAfterAbort := by
  unfold Obligations.ChipSelectAfterAbort
  intro s t hinv hr hb hs ht
  exact (EndsDuly.of_step hr hb hs ht).leavesLine hinv.dropRequest

end Sys2Proof.Machine

/-! O56, O58: reset (70_reset_and_hazards.md R240 to R242). -/

namespace Sys2Proof.Machine

/-- Settles O56: after reset the controller is idle, no responder is attached and SIZE is 0. -/
theorem invariantAtReset : Obligations.InvariantAtReset := by
  unfold Obligations.InvariantAtReset
  exact .of_idle rfl nofun (.inl rfl)

/-- The zero density code is not in the table (40_density_and_id.md R110). -/
theorem reset_not_usable : State.reset.usable = false := by decide

theorem applyReset_not_usable (s : State) : s.applyReset.usable = false :=
  (State.usable_congr rfl rfl).trans reset_not_usable

/-- Settles O58: the reset state is a constant, and the reset event takes every register from it. -/
theorem resetValues : Obligations.ResetValues := by
  unfold Obligations.ResetValues
  refine ⟨⟨rfl, rfl, rfl, rfl, rfl, rfl, rfl, rfl, rfl, rfl, reset_not_usable⟩, fun s h => ?_⟩
  exact ⟨s.applyReset, step_reset h, rfl, rfl, rfl, rfl, rfl, rfl, rfl, rfl, rfl, rfl, rfl, rfl,
    applyReset_not_usable s⟩

end Sys2Proof.Machine

/-! O3: the words of spec/opcode_table.json (30_encoding.md sections 2 to 4, 95_test_vectors.md section 3). -/

namespace Sys2Proof

/-- A word of the opcode table that spells an instruction's encoding decodes to that instruction. -/
theorem decodeTableWord_of_encode {nbits w : Nat} {i : Instr} {code : Code} (hi : i.wf = true)
    (he : encode i = some code) (hc : codeOfTableWord nbits w = some code) : decodeTableWord nbits w = some i := by
  have hd : decode code = .instr i := decode_encode (by decide) hi he
  rw [decodeTableWord, hc]
  simp only [hd]

/-- Settles O3: each word, cut into its bytes or read as `REQ`, is the encoding of its instruction. -/
theorem writtenOutWordsDecode : Obligations.WrittenOutWordsDecode := by
  unfold Obligations.WrittenOutWordsDecode
  refine ⟨?_, ?_, ?_, ?_, ?_, ?_, ?_, ?_, ?_⟩
  all_goals exact decodeTableWord_of_encode (by decide) rfl (by decide)

end Sys2Proof
